-- ==== Sys2Proof/Word.lean ====
section
/-!
DEFINITION. Word types of the block: the 32-bit control register and QMEM word, the BMEM byte, and the finite IEEE 754
binary64 value an RMEM word holds (00_scope.md R7, R10; 10_state.md R28 to R30).
-/

namespace Sys2Proof

/-- A 32-bit word: a control register (R18) or, read in two's complement, a QMEM word (R29). -/
abbrev Word := BitVec 32

/-- A BMEM unit (R30). -/
abbrev Byte := BitVec 8

/-- One FINITE IEEE 754 binary64 value: sign, biased 11-bit exponent below 2047, 52-bit fraction (R10; GK3 for the
format). Infinities and not-a-numbers have no term here, as R10 (f) and U7 ask of the model's NUM type (log entry 15).
`-0` and `+0` are two values (log entry 12). -/
structure F64 where
  /-- The sign bit: true for a minus sign. -/
  neg : Bool
  /-- The biased exponent; 2047, which marks non-finite values, is excluded by the type. -/
  exponent : Fin 2047
  /-- The 52 stored fraction bits. -/
  fraction : BitVec 52
deriving DecidableEq, Repr, Inhabited

end Sys2Proof
end

