-- ==== Sys2Proof/Syntax.lean ====
section
/-!
DEFINITION. The syntax of everything the block is told: the thirteen commands (30_encoding.md R59), the bitstream element
(R64), the host's transactions (20_memory.md R38), and the host script lines and pseudo-instructions (R69, R70).
-/

namespace Sys2Proof

/-- The thirteen commands of R59, one constructor per row of the opcode table. A command word carries no operand (R58). -/
inductive Instr where
  /-- MSFWD, 0x01: mid/side forward matrix (R72). -/
  | msfwd
  /-- FRAME, 0x02: pad and cut one channel into overlapped blocks (R77). -/
  | frame
  /-- WINA, 0x03: analysis window (R79). -/
  | wina
  /-- MDCT, 0x04: forward transform (R83). -/
  | mdct
  /-- QUANT, 0x05: round and truncate (R89). -/
  | quant
  /-- PACK, 0x06: entropy bit packer (R97). -/
  | pack
  /-- UNPACK, 0x07: entropy bit unpacker (R100). -/
  | unpack
  /-- DEQUANT, 0x08: widen and zero-pad (R90). -/
  | dequant
  /-- IMDCT, 0x09: inverse transform with noise snap (R84). -/
  | imdct
  /-- WINS, 0x0A: synthesis window (R80). -/
  | wins
  /-- OLA, 0x0B: overlap-add synthesis (R94). -/
  | ola
  /-- MSINV, 0x0C: mid/side inverse matrix (R73). -/
  | msinv
  /-- PCMOUT, 0x0D: output clamp and round (R74). -/
  | pcmout
deriving DecidableEq, Repr

/-- Why a command word is illegal (R61): each way has its name; all of them fault E_ILLEGAL. -/
inductive Illegal where
  /-- Some bit of the field ZERO, bits 31:8, is 1. -/
  | nonzeroHighBits
  /-- ZERO is 0 and OPC is 0x00 or 0x0E to 0xFF. -/
  | reservedOpcode (opc : BitVec 8)
deriving DecidableEq, Repr

/-- The three buffer memories (R39). The fourth space, CSR, is reached by register index. -/
inductive Space where
  | rmem
  | qmem
  | bmem
deriving DecidableEq, Repr

/-- The mapped control registers, by name (R24, R69). -/
inductive Reg where
  | ctrl | status | cmd | res | cfgN | cfgM | src0 | src1 | dst0 | dst1 | cnt
deriving DecidableEq, Repr

/-- The index of a control register (R24). -/
def Reg.index : Reg → Word
  | .ctrl => 0 | .status => 1 | .cmd => 2 | .res => 3 | .cfgN => 4 | .cfgM => 5
  | .src0 => 8 | .src1 => 9 | .dst0 => 10 | .dst1 => 11 | .cnt => 12

/-- One element of the bitstream, format E (R64): NB, SG and MAG. -/
structure Element where
  /-- NB, the width of MAG. -/
  nb : Nat
  /-- SG, true for a negative value. -/
  sg : Bool
  /-- MAG, the magnitude bits read as a natural. -/
  mag : Nat
deriving DecidableEq, Repr

/-- A host transaction (R38). A BufWrite is split by space, because the value's type is the space's; a non-finite value
cannot be written (U7, log entry 15). `α` is the carrier of RMEM words, NUM of R7, here and below. -/
inductive Txn (α : Type := F64) where
  | csrRead (idx : Word)
  | csrWrite (idx v : Word)
  | bufRead (space : Space) (a : Word)
  | bufWriteR (a : Word) (v : α)
  | bufWriteQ (a : Word) (v : Word)
  | bufWriteB (a : Word) (v : Byte)
deriving DecidableEq, Repr

/-- What a read transaction returns to the host (R38). -/
inductive Reply (α : Type := F64) where
  | word (v : Word)
  | real (v : α)
  | int (v : Word)
  | byte (v : Byte)
deriving DecidableEq, Repr

/-- Who moves next (R17, R139): the core, the host with one transaction, or the hardware reset input (log entry 8). -/
inductive Turn (α : Type := F64) where
  | core
  | host (t : Txn α)
  | hardwareReset
deriving DecidableEq, Repr

/-- The lines of a host script (R69) and the pseudo-instructions (R70). -/
inductive ScriptLine (α : Type := F64) where
  | csrw (r : Reg) (v : Word)
  | csrr (r : Reg)
  | bufwR (a : Word) (v : α)
  | bufwQ (a : Word) (v : Word)
  | bufwB (a : Word) (v : Byte)
  | bufr (space : Space) (a : Word)
  | cmd (i : Instr)
  | wait
  | config (n m : Int)
  | sreset
  | msfwd (l r mid side cnt : Word)
  | msinv (mid side l r cnt : Word)
  | unpack (src slen dst cnt : Word)
  /-- `OP src, dst, cnt` for the ten one-source commands. -/
  | op (i : Instr) (src dst cnt : Word)
deriving DecidableEq, Repr

end Sys2Proof
end

