-- ==== Sys2Proof/Machine/State.lean ====
section
/-!
DEFINITION. The state of the block (10_state.md R18 to R37) and of the model around it, the reasons a step can stop, and
the state after hardware reset (R32, R140).
-/

namespace Sys2Proof.Machine

/-- Everything the spec gives the block (R18, R37), in plain data, and four fields of the model's own at the end.
The memories list written units only, by rising address: an address not listed is R37's "unwritten". `α` is the carrier of
RMEM words, the parameter NUM of R7; `State` alone is the state at NUM's default, binary64 (R10). -/
structure State (α : Type := F64) where
  /-- STATUS.BUSY, bit 0 (R20). -/
  busy : Bool
  /-- STATUS.DONE, bit 1 (R20). -/
  done : Bool
  /-- STATUS.FAULT, bit 2 (R20). -/
  fault : Bool
  /-- STATUS.TRUNC, bit 4 (R20, R108). -/
  trunc : Bool
  /-- STATUS.UNDERRUN, bit 5 (R20, R108). -/
  underrun : Bool
  /-- STATUS.ERRCODE, bits 11:8 (R20, R120). -/
  errcode : BitVec 4
  /-- CMD, the most recently accepted command word (R21). -/
  cmd : Word
  /-- RES, the result value of the most recently completed command (R21). -/
  res : Word
  /-- CFG_N, read signed (R22). -/
  cfgN : Word
  /-- CFG_M, read signed (R22). -/
  cfgM : Word
  /-- SRC0 (R23). -/
  src0 : Word
  /-- SRC1 (R23). -/
  src1 : Word
  /-- DST0 (R23). -/
  dst0 : Word
  /-- DST1 (R23). -/
  dst1 : Word
  /-- CNT (R23). -/
  cnt : Word
  /-- RMEM (R28). -/
  rmem : List (Nat × α)
  /-- QMEM (R29). -/
  qmem : List (Nat × Word)
  /-- BMEM (R30). -/
  bmem : List Host.Cell
  /-- The model's own: the number of hardware resets so far, which selects the unspecified contents of unwritten units
  (R33; log entry 5). -/
  resets : Nat
  /-- The model's own: the number of times an unspecified value has been drawn, by a BufRead (R38, R54; log entry 6) or by
  a hardware reset that abandons a command (R32, U4; log entry 7). -/
  draws : Nat
  /-- The model's own: who moves next; empty, every turn is the core's (R17, R152; log entry 8). -/
  turns : List (Turn α)
  /-- The model's own: what the host's reads have returned, the newest first (R38; log entry 9). -/
  replies : List (Reply α)
deriving DecidableEq, Repr

/-- Why the MODEL stops a step. Nothing stops it: the block's five faults are next states (R123), and a read of an
unwritten unit takes a free value (log entry 5). So no constructor, and nobody raises one; that is safe. -/
inductive Fault
deriving DecidableEq, Repr

/-- Why the model has no meaning for a command. -/
inductive Refusal where
  /-- Raised by an arm of `exec` whose command has no meaning yet; no arm raises it in this model. Safe: it only stops. -/
  | notModelled (mnemonic : String)
deriving DecidableEq, Repr

/-- What a step of this machine answers. -/
abbrev Outcome := Host.Outcome State Fault Refusal

/-- The machine at power-on, in any carrier: every register 0, no command pending, no memory unit written (R32, R33,
R140). The four model fields: log entry 10. -/
def State.initial {α : Type} : State α where
  busy := false
  done := false
  fault := false
  trunc := false
  underrun := false
  errcode := 0
  cmd := 0
  res := 0
  cfgN := 0
  cfgM := 0
  src0 := 0
  src1 := 0
  dst0 := 0
  dst1 := 0
  cnt := 0
  rmem := []
  qmem := []
  bmem := []
  resets := 0
  draws := 0
  turns := []
  replies := []

/-- The machine right after reset, at NUM's default. -/
def State.reset : State := State.initial

end Sys2Proof.Machine
end

