-- ==== Sys2Proof/Machine/Flags.lean ====
section
/-!
DEFINITION. The STATUS word (10_state.md R20), the fault codes (60_exceptions.md R120) and the conditions of the two
informational flags (45_entropy.md R108).
-/

namespace Sys2Proof.Machine

/-- The block's five faults (R120). -/
inductive ErrCode where
  /-- E_ILLEGAL, 1: the command word is not one of the thirteen. -/
  | illegal
  /-- E_CONFIG, 2: not (1 ≤ N ≤ NMAX and 0 ≤ M < N). -/
  | config
  /-- E_BOUNDS, 3: a region ends beyond its memory. -/
  | bounds
  /-- E_OVERLAP, 4: two regions of the command in one memory overlap. -/
  | overlap
  /-- E_RANGE, 5: a rounded coefficient does not fit a signed 32-bit word. -/
  | range
deriving DecidableEq, Repr

/-- The code written to STATUS.ERRCODE (R120). -/
def ErrCode.bits : ErrCode → BitVec 4
  | .illegal => 1
  | .config => 2
  | .bounds => 3
  | .overlap => 4
  | .range => 5

/-- The bit of a flag, as a field of width 1. -/
def flagBit (b : Bool) : BitVec 1 := BitVec.ofBool b

/-- The word a read of STATUS returns (R20): every reserved bit reads 0. -/
def State.status {α : Type} (s : State α) : Word :=
  (0 : BitVec 20) ++ s.errcode ++ (0 : BitVec 2) ++ flagBit s.underrun ++ flagBit s.trunc ++ (0 : BitVec 1) ++
    flagBit s.fault ++ flagBit s.done ++ flagBit s.busy

/-- PACK sets TRUNC exactly when some source element has magnitude 65536 or more (R108). -/
def truncates (vs : List Int) : Bool := vs.any (fun v => decide (65536 ≤ v.natAbs))

/-- UNPACK sets UNDERRUN exactly when some bit was read at a stream position of 8·SLEN or more (R108). The bits read are
those at positions 0 to `next - 1` (R100), so one of them is past the end exactly when `next` is. -/
def underruns (slen next : Nat) : Bool := decide (8 * slen < next)

end Sys2Proof.Machine
end

