-- ==== Sys2Proof/Config.lean ====
section
/-!
DEFINITION. What an implementation of the block fixes: the build parameters (00_scope.md R7) and the two factor functions
(R10 c); and the free values: what the spec leaves unspecified, as constants without a body, of which no proof can know
a value.
-/

namespace Sys2Proof

/-- The build-time parameters of R7, "each a named argument of the model". -/
structure Params where
  /-- NMAX, the largest N the block accepts. -/
  nmax : Nat
  /-- RWORDS, the number of words of RMEM. -/
  rwords : Nat
  /-- QWORDS, the number of words of QMEM. -/
  qwords : Nat
  /-- BBYTES, the number of bytes of BMEM. -/
  bbytes : Nat
deriving DecidableEq, Repr

/-- The constraints of R7 on the build parameters. -/
abbrev Params.wf (p : Params) : Prop :=
  1 ≤ p.nmax ∧ 2 * p.nmax ≤ p.rwords ∧ p.nmax ≤ p.qwords ∧
  (1 ≤ p.rwords ∧ p.rwords ≤ 2 ^ 32) ∧ (1 ≤ p.qwords ∧ p.qwords ≤ 2 ^ 32) ∧ (1 ≤ p.bbytes ∧ p.bbytes ≤ 2 ^ 32)

namespace Config

/-- The default values of R7. DESIGN CHOICE (log entry 2): `execOn` and `stepOn` of Machine/Turns.lean and everything under
them take the parameters as an argument; the host's `exec` and `step` are those two at these values. -/
def params : Params where
  nmax := 4096
  rwords := 2 ^ 20
  qwords := 2 ^ 20
  bbytes := 2 ^ 22

/-- EPS, the tolerance between a built block and the reference instance (R7, U1): an open parameter without a number, with
which no rule computes (log entry 20). Free value. -/
opaque eps : ℚ

/-- The window factor of a built block before the bound of R10 (c) is imposed (log entry 3). Free value. -/
opaque winFactor : Nat → Nat → F64

/-- The kernel factor of a built block before the bound of R10 (c) is imposed (log entry 3). Free value. -/
opaque kerFactor : Nat → Nat → Nat → F64

/-- What a binary64 addition gives when the rounded sum is beyond the finite format (log entry 4). Free value. -/
opaque sumBeyondFormat : F64 → F64 → F64

/-- What a binary64 multiplication gives when the rounded product is beyond the finite format (log entry 4). Free value. -/
opaque productBeyondFormat : F64 → F64 → F64

/-- The unspecified value of a word of RMEM that nothing has written since hardware reset number `resets` (R33, R55;
log entry 5), in whichever carrier RMEM has. Free value. -/
opaque unwrittenReal {α : Type} [Inhabited α] (resets address : Nat) : α

/-- The unspecified value of a word of QMEM that nothing has written (R33, R55; log entry 5). Free value. -/
opaque unwrittenInt (resets address : Nat) : Word

/-- The unspecified value of a byte of BMEM that nothing has written (R33, R55; log entry 5). Free value. -/
opaque unwrittenByte (resets address : Nat) : Byte

/-- What a BufRead of RMEM returns while BUSY = 1 or out of range, the `draw`-th such read (R38, R54; log entry 6).
Free value. -/
opaque busReal {α : Type} [Inhabited α] (draw : Nat) : α

/-- What a BufRead of QMEM returns while BUSY = 1 or out of range (R38, R54; log entry 6). Free value. -/
opaque busInt (draw : Nat) : Word

/-- What a BufRead of BMEM returns while BUSY = 1 or out of range (R38, R54; log entry 6). Free value. -/
opaque busByte (draw : Nat) : Byte

/-- What a word of RMEM in a destination of an abandoned command holds after the hardware reset that abandoned it, the
`draw`-th such event (R32, U4; log entry 7). Free value. -/
opaque abandonedReal {α : Type} [Inhabited α] (draw address : Nat) : α

/-- What a word of QMEM in a destination of an abandoned command holds (R32, U4; log entry 7). Free value. -/
opaque abandonedInt (draw address : Nat) : Word

/-- What a byte of BMEM in a destination of an abandoned command holds (R32, U4; log entry 7). Free value. -/
opaque abandonedByte (draw address : Nat) : Byte

end Config

end Sys2Proof
end

