-- ==== Sys2Proof/Machine/Binary64.lean ====
section
/-!
DEFINITION. IEEE 754 binary64 arithmetic on finite values as 00_scope.md R10 uses it: every operation is computed exactly
on integers and rounded once, to nearest, ties to even. The unit of every integer here is 2^-1074, the smallest positive
binary64 value, of which every finite value is a whole multiple.
-/

namespace Sys2Proof

/-- `bitlen a`, the number of binary digits of `a` (R16). -/
def bitlen (a : Nat) : Nat := if a = 0 then 0 else Nat.log2 a + 1

namespace F64

/-- The 53-bit significand: a stored exponent of 0 has no hidden bit (GK3). -/
def significand (x : F64) : Nat :=
  if x.exponent.val = 0 then x.fraction.toNat else 2 ^ 52 + x.fraction.toNat

/-- The magnitude of a value in units of 2^-1074. -/
def magnitude (x : F64) : Nat := x.significand * 2 ^ (x.exponent.val - 1)

/-- The value in units of 2^-1074. -/
def scaled (x : F64) : Int := if x.neg then -(x.magnitude : Int) else x.magnitude

/-- The exact value as a rational number. -/
def toRat (x : F64) : ℚ := (x.scaled : ℚ) / 2 ^ 1074

/-- The exponent and fraction fields as one number, which orders magnitudes as their values do. -/
def magBits (x : F64) : Nat := x.exponent.val * 2 ^ 52 + x.fraction.toNat

/-- The value with the given exponent and fraction fields, where they are those of a finite value. -/
def ofMagBits (neg : Bool) (bits : Nat) : Option F64 :=
  if h : bits / 2 ^ 52 < 2047 then some ⟨neg, ⟨bits / 2 ^ 52, h⟩, BitVec.ofNat 52 bits⟩ else none

/-- The value of a 64-bit interchange pattern, where it is finite. -/
def ofBits (w : BitVec 64) : Option F64 := ofMagBits w.msb (w.toNat % 2 ^ 63)

/-- `+0`. -/
def zero : F64 := ⟨false, 0, 0⟩

/-- `1`. -/
def one : F64 := ⟨false, 1023, 0⟩

/-- The value with its sign changed. -/
def negate (x : F64) : F64 := { x with neg := !x.neg }

/-- `p / d` rounded to the nearest integer, a tie to the even one. -/
def roundHalfEven (p d : Nat) : Nat :=
  let q := p / d
  let r := p % d
  if 2 * r < d then q else if d < 2 * r then q + 1 else q + q % 2

/-- The magnitude `p / d` units rounded to nearest, ties to even, with the sign given (R10 a); none when the rounded
value is beyond the finite format. With `k` bits dropped the significand lies in 2^52 to 2^53, and adding it to `k` times
2^52 sets both fields, a carry into the exponent included. -/
def round (neg : Bool) (p d : Nat) : Option F64 :=
  let k := bitlen (p / d) - 53
  ofMagBits neg (k * 2 ^ 52 + roundHalfEven p (d * 2 ^ k))

/-- Addition, rounded once (R10 a). An exact zero is `+0` but for the sum of two `-0` (GK3, log entry 12). A sum beyond
the finite format is a free value (log entry 4). -/
def add (a b : F64) : F64 :=
  let z := a.scaled + b.scaled
  if z = 0 then { zero with neg := a.neg && b.neg }
  else (round (z < 0) z.natAbs 1).getD (Config.sumBeyondFormat a b)

/-- Subtraction, rounded once (R10 a). -/
def sub (a b : F64) : F64 := add a b.negate

/-- Multiplication, rounded once (R10 a); a product beyond the finite format is a free value (log entry 4). -/
def mul (a b : F64) : F64 :=
  (round (a.neg ^^ b.neg) (a.magnitude * b.magnitude) (2 ^ 1074)).getD (Config.productBeyondFormat a b)

/-- Division by a positive integer, rounded once (R10 a, d). Such a quotient is never beyond the format. -/
def divNat (a : F64) (d : Nat) : F64 := (round a.neg a.magnitude d).getD zero

/-- The value of an integer. Every 32-bit integer is exact (R90); none of those is beyond the format. -/
def ofInt (z : Int) : F64 := (round (z < 0) (z.natAbs * 2 ^ 1074) 1).getD zero

/-- `rnd`, nearest integer, half away from zero (R11), exact (R10 e). -/
def rnd (x : F64) : Int :=
  let a : Int := ((2 * x.magnitude + 2 ^ 1074) / 2 ^ 1075 : Nat)
  if x.neg then -a else a

/-- `clamp16` (R12), exact (R10 e). -/
def clamp16 (x : F64) : F64 :=
  if x.scaled < -32768 * 2 ^ 1074 then ofInt (-32768)
  else if 32767 * 2 ^ 1074 < x.scaled then ofInt 32767
  else x

/-- The binary64 value nearest to 10^-10 (R13): 0x3DDB7CDFD9D7BDBB. -/
def snapLimit : F64 := ⟨false, 0x3DD, 0xB7CDFD9D7BDBB⟩

/-- `snap`: `+0` when the magnitude is below 1e-10, else the value (R13); the comparison is strict. -/
def snap (x : F64) : F64 := if x.magBits < snapLimit.magBits then zero else x

/-- The value cut to magnitude at most 1, which is all R10 (c) says of a factor. -/
def atMostOne (x : F64) : F64 := if x.magBits ≤ one.magBits then x else { one with neg := x.neg }

end F64

end Sys2Proof
end

