-- ==== Sys2Proof/Machine/Numerics.lean ====
section
/-!
DEFINITION. The numerics of the block as one configuration record (00_scope.md R10, last sentences), and its binary64
instance, the one the machine computes with. The reference instance over the reals stands in Machine/Reference.lean.
-/

namespace Sys2Proof

/-- The numerics record of R10: the operations every stage is written with. -/
structure Numerics (α : Type) where
  /-- The exact zero the stages write, and the start of every sum. -/
  zero : α
  /-- Addition. -/
  add : α → α → α
  /-- Subtraction. -/
  sub : α → α → α
  /-- Multiplication. -/
  mul : α → α → α
  /-- Division by a positive integer. -/
  divNat : α → Nat → α
  /-- The real number equal to an integer. -/
  ofInt : Int → α
  /-- `win N j`, the window factor (R14). -/
  win : Nat → Nat → α
  /-- `ker N n k`, the transform kernel (R15), the same in both directions (R87). -/
  ker : Nat → Nat → Nat → α
  /-- `rnd` (R11). -/
  rnd : α → Int
  /-- `snap` (R13). -/
  snap : α → α
  /-- `clamp16` (R12). -/
  clamp16 : α → α

/-- `f 0 + f 1 + … + f (n-1)`, accumulated from zero in ascending index order (R10 b). -/
def Numerics.sum {α : Type} (nm : Numerics α) (f : Nat → α) : Nat → α
  | 0 => nm.zero
  | n + 1 => nm.add (Numerics.sum nm f n) (f n)

/-- `win64`: a function of its integer arguments alone, of magnitude at most 1 (R10 c); nothing else is known of it. -/
def win64 (n j : Nat) : F64 := (Config.winFactor n j).atMostOne

/-- `ker64`: as `win64` (R10 c). -/
def ker64 (n i k : Nat) : F64 := (Config.kerFactor n i k).atMostOne

/-- The hardware instance (R10). -/
def binary64 : Numerics F64 where
  zero := F64.zero
  add := F64.add
  sub := F64.sub
  mul := F64.mul
  divNat := F64.divNat
  ofInt := F64.ofInt
  win := win64
  ker := ker64
  rnd := F64.rnd
  snap := F64.snap
  clamp16 := F64.clamp16

end Sys2Proof
end

