-- ==== Sys2Proof/Machine/Ops.lean ====
section
/-!
DEFINITION. The named operations over memories and registers: the one read and the one write of every memory, completion
(10_state.md R36), fault entry (60_exceptions.md R123), acceptance (R35), soft reset (R34) and the hardware reset of an
idle block (R32, R33).
-/

namespace Sys2Proof.Machine

/-! ### Memories as lists of written units -/

/-- The unit at an address, or none where nothing has been written (R37). -/
def Memory.read {α : Type} : List (Nat × α) → Nat → Option α
  | [], _ => none
  | (k, v) :: m, a => if k = a then some v else Memory.read m a

/-- Consecutive units from address `a` on. -/
def Memory.cells {α : Type} : Nat → List α → List (Nat × α)
  | _, [] => []
  | a, v :: vs => (a, v) :: Memory.cells (a + 1) vs

/-- The memory with the consecutive units `vs` written from `base` on (R46). -/
def Memory.writeRegion {α : Type} (base : Nat) (vs : List α) (m : List (Nat × α)) : List (Nat × α) :=
  m.filter (fun c => decide (c.1 < base)) ++ Memory.cells base vs ++
    m.filter (fun c => decide (base + vs.length ≤ c.1))

/-- The canonical form: addresses strictly rising. An unlisted address holds no value, so no listed unit can equal what
it reads as. -/
abbrev Memory.wf {α : Type} (m : List (Nat × α)) : Prop := (m.map Prod.fst).Pairwise (· < ·)

/-- Every listed address is an address of a memory of `size` units. -/
abbrev Memory.within {α : Type} (size : Nat) (m : List (Nat × α)) : Prop := ∀ c ∈ m, c.1 < size

/-- The list `f 0, f 1, …, f (n-1)`: the values of a region of length `n`. -/
def tabulate {α : Type} (n : Nat) (f : Nat → α) : List α := (List.range n).map f

/-! ### Reads and writes of the three buffer memories -/

/-- `R[a]`. A word nothing has written holds an unspecified value (R55, log entry 5). -/
def State.readR {α : Type} [Inhabited α] (s : State α) (a : Nat) : α :=
  (Memory.read s.rmem a).getD (Config.unwrittenReal s.resets a)

/-- `Q[a]` as a word. A word nothing has written holds an unspecified value (R55, log entry 5). -/
def State.readQ {α : Type} (s : State α) (a : Nat) : Word :=
  (Memory.read s.qmem a).getD (Config.unwrittenInt s.resets a)

/-- `B[a]`. A byte nothing has written holds an unspecified value (R55, log entry 5). -/
def State.readB {α : Type} (s : State α) (a : Nat) : Byte :=
  (Memory.read s.bmem a).getD (Config.unwrittenByte s.resets a)

/-- The values of RMEM counted from a base address: `R[base + i]` (R46). -/
def State.realsFrom {α : Type} [Inhabited α] (s : State α) (base : Word) (i : Nat) : α := s.readR (base.toNat + i)

/-- The signed values of QMEM counted from a base address: `Q[base + i]` (R46, R29). -/
def State.intsFrom {α : Type} (s : State α) (base : Word) (i : Nat) : Int := (s.readQ (base.toNat + i)).toInt

/-- The bytes of BMEM counted from a base address: `B[base + i]` (R46). -/
def State.bytesFrom {α : Type} (s : State α) (base : Word) (i : Nat) : Byte := s.readB (base.toNat + i)

/-- Write consecutive words of RMEM. -/
def State.writeR {α : Type} (s : State α) (base : Word) (vs : List α) : State α :=
  { s with rmem := Memory.writeRegion base.toNat vs s.rmem }

/-- Write consecutive words of QMEM, each an integer in its two's-complement pattern (R29). -/
def State.writeQ {α : Type} (s : State α) (base : Word) (zs : List Int) : State α :=
  { s with qmem := Memory.writeRegion base.toNat (zs.map (BitVec.ofInt 32)) s.qmem }

/-- Write consecutive bytes of BMEM. -/
def State.writeB {α : Type} (s : State α) (base : Word) (bs : List Byte) : State α :=
  { s with bmem := Memory.writeRegion base.toNat bs s.bmem }

/-! ### The life cycle of a command -/

/-- Acceptance, a host write to CMD (R35): a command is accepted only when neither BUSY nor FAULT is set, and nothing of
the word is checked. -/
def State.accept {α : Type} (w : Word) (s : State α) : State α :=
  if s.busy || s.fault then s
  else { s with cmd := w, busy := true, done := false, trunc := false, underrun := false }

/-- Fault entry, the meaning of `raise` (R123): nothing but BUSY, FAULT and ERRCODE changes; DONE, TRUNC and UNDERRUN
"stay" (log entry 11). -/
def State.raise {α : Type} (e : ErrCode) (s : State α) : State α :=
  { s with busy := false, fault := true, errcode := e.bits }

/-- Fault-free completion (R36): RES is written, BUSY is cleared and DONE set. -/
def State.complete {α : Type} (res : Nat) (s : State α) : State α :=
  { s with res := BitVec.ofNat 32 res, busy := false, done := true }

/-- `STATUS.TRUNC <- 1 if …, else stays` (R97). -/
def State.setTrunc {α : Type} (b : Bool) (s : State α) : State α := { s with trunc := s.trunc || b }

/-- `STATUS.UNDERRUN <- 1 if …, else stays` (R100). -/
def State.setUnderrun {α : Type} (b : Bool) (s : State α) : State α := { s with underrun := s.underrun || b }

/-- Soft reset (R34): every control and operand register takes its reset value; the memories stay. -/
def State.softReset {α : Type} (s : State α) : State α :=
  { (State.initial : State α) with
    rmem := s.rmem, qmem := s.qmem, bmem := s.bmem,
    resets := s.resets, draws := s.draws, turns := s.turns, replies := s.replies }

/-- Hardware reset of an idle block (R32, R33): every register takes its reset value and the contents of every memory are
unspecified anew. A reset that abandons a command: Machine/HardwareReset.lean. -/
def State.powerReset {α : Type} (s : State α) : State α :=
  { (State.initial : State α) with resets := s.resets + 1, draws := s.draws, turns := s.turns, replies := s.replies }

end Sys2Proof.Machine
end

