-- ==== Sys2Proof/Machine/Operands.lean ====
section
/-!
DEFINITION. Operands: N and M (10_state.md R22), regions with their bounds and disjointness (20_memory.md R46 to R48), and
the common checks every command makes before its function (R36 steps 2 to 4, 60_exceptions.md R121, R122).
-/

namespace Sys2Proof.Machine

/-- The size of a space in its units (R39). -/
def spaceUnits (p : Params) : Space → Nat
  | .rmem => p.rwords
  | .qmem => p.qwords
  | .bmem => p.bbytes

/-- N as a natural, once the configuration is known to be valid (R22). -/
def State.n {α : Type} (s : State α) : Nat := s.cfgN.toInt.toNat

/-- M as a natural, once the configuration is known to be valid (R22). -/
def State.m {α : Type} (s : State α) : Nat := s.cfgM.toInt.toNat

/-- `K = N - M`, the kept coefficients of a block (R89). -/
def State.k {α : Type} (s : State α) : Nat := s.n - s.m

/-- CNT read unsigned (R23). -/
def State.count {α : Type} (s : State α) : Nat := s.cnt.toNat

/-- The configuration is valid (R22): `1 ≤ N ≤ NMAX and 0 ≤ M < N`, both read signed. -/
abbrev ConfigValid {α : Type} (p : Params) (s : State α) : Prop :=
  1 ≤ s.cfgN.toInt ∧ s.cfgN.toInt ≤ p.nmax ∧ 0 ≤ s.cfgM.toInt ∧ s.cfgM.toInt < s.cfgN.toInt

/-- A region: a space, a base address and a length in units of the space (R46). -/
structure Region where
  space : Space
  base : Nat
  len : Nat
deriving DecidableEq, Repr

/-- The region whose base is in an operand register. -/
def region (space : Space) (base : Word) (len : Nat) : Region := ⟨space, base.toNat, len⟩

/-- In bounds, in the naturals; an empty region is in bounds at every base (R47, C9). -/
abbrev Region.InBounds (p : Params) (r : Region) : Prop := r.len = 0 ∨ r.base + r.len ≤ spaceUnits p r.space

/-- Two regions of one space overlap (R48). -/
abbrev Region.Overlaps (a b : Region) : Prop :=
  a.space = b.space ∧ 0 < a.len ∧ 0 < b.len ∧ a.base < b.base + b.len ∧ b.base < a.base + a.len

/-- What the common checks look at: the regions tested for bounds and the pairs tested for overlap (R121). -/
structure Operands where
  regions : List Region
  pairs : List (Region × Region)
deriving DecidableEq, Repr

/-- Two sources and two destinations; the pair of the sources is exempt (R48, R121). -/
def Operands.twoByTwo (src0 src1 dst0 dst1 : Region) : Operands where
  regions := [src0, src1, dst0, dst1]
  pairs := [(src0, dst0), (src0, dst1), (src1, dst0), (src1, dst1), (dst0, dst1)]

/-- One source and one destination of fixed length (R121). -/
def Operands.oneByOne (src dst : Region) : Operands where
  regions := [src, dst]
  pairs := [(src, dst)]

/-- One source; the destination's length is known only from the data (PACK, R121). -/
def Operands.sourceOnly (src : Region) : Operands where
  regions := [src]
  pairs := []

/-- Steps 2 to 4 of completion: the first fault that applies, in the order E_CONFIG, E_BOUNDS, E_OVERLAP (R36, R122). -/
def commonFault {α : Type} (p : Params) (o : Operands) (s : State α) : Option ErrCode :=
  if ¬ ConfigValid p s then some .config
  else if ¬ ∀ r ∈ o.regions, r.InBounds p then some .bounds
  else if ∃ q ∈ o.pairs, Region.Overlaps q.1 q.2 then some .overlap
  else none

/-- A command's step: the fault of the common checks, or what its function then gives (R36). -/
def State.checked {α : Type} (p : Params) (o : Operands) (s : State α) (effect : State α) : State α :=
  match commonFault p o s with
  | some e => s.raise e
  | none => effect

end Sys2Proof.Machine
end

