-- ==== Sys2Proof/Machine/Entropy.lean ====
section
/-!
DEFINITION. The entropy code family: the bitstream element (30_encoding.md R64 to R67), its placement in bytes
(20_memory.md R40), PACK and UNPACK (45_entropy.md R97 to R102).
-/

namespace Sys2Proof

/-- `field(W, f)`: the W bits of a field, most significant first: stream bit `i` is bit `W - 1 - i` of `f`
(R65). -/
def fieldBits (w f : Nat) : List Bool := (List.range w).map (fun i => f.testBit (w - 1 - i))

/-- The stream bits of an element: NB, SG, MAG (R64). -/
def Element.bits (e : Element) : List Bool := fieldBits 5 e.nb ++ [e.sg] ++ fieldBits e.nb e.mag

/-- The element `Enc(v)` writes for an integer: the width is clamped to 16 and the low-order bits of the magnitude are
kept (R98, C4). -/
def encodeElement (v : Int) : Element :=
  let nb := min (bitlen v.natAbs + 1) 16
  { nb := nb, sg := decide (v < 0), mag := v.natAbs % 2 ^ nb }

/-- `Dec(s, m)` (R102). -/
def decodeElement (e : Element) : Int := if e.sg then -(e.mag : Int) else e.mag

/-- The bits of one vector's elements, in index order (R66, R97). -/
def streamBits (vs : List Int) : List Bool := vs.flatMap (fun v => (encodeElement v).bits)

/-- One byte from at most eight stream bits, the first in bit 7; bits that are missing are padding and 0 (R40, R66). -/
def byteOfBits (bits : List Bool) : Byte :=
  BitVec.ofNat 8 ((List.range 8).foldl (fun acc i => 2 * acc + (bits.getD i false).toNat) 0)

/-- The first `l` bytes of a bit stream (R99). -/
def bytesOfBits : Nat → List Bool → List Byte
  | 0, _ => []
  | l + 1, bits => byteOfBits (bits.take 8) :: bytesOfBits l (bits.drop 8)

/-- The bytes of a bitstream block: `L = ceil(T / 8)` of them (R66, R97). -/
def packBytes (vs : List Int) : List Byte := bytesOfBits (((streamBits vs).length + 7) / 8) (streamBits vs)

/-- The bit at stream position `t`, where `slen` bytes are available; a bit past them is 0 (R40, R101). -/
def streamBit (src : Nat → Byte) (slen t : Nat) : Bool :=
  if t / 8 < slen then (src (t / 8)).getLsbD (7 - t % 8) else false

/-- `ReadBits(W)` at position `t` (R101). -/
def readBits (src : Nat → Byte) (slen t : Nat) : Nat → Nat
  | 0 => 0
  | w + 1 => 2 * readBits src slen t w + (streamBit src slen (t + w)).toNat

/-- The element at stream position `t` (R100): NB is obeyed whatever it is (R67). -/
def readElement (src : Nat → Byte) (slen t : Nat) : Element :=
  let nb := readBits src slen t 5
  { nb := nb, sg := streamBit src slen (t + 5), mag := readBits src slen (t + 6) nb }

/-- `count` elements from stream position `t` on, and the position after the last of them (R100). -/
def readElements (src : Nat → Byte) (slen : Nat) : Nat → Nat → List Element × Nat
  | 0, t => ([], t)
  | count + 1, t =>
    let e := readElement src slen t
    let rest := readElements src slen count (t + 6 + e.nb)
    (e :: rest.1, rest.2)

/-- The integers of `count` elements (R100). -/
def unpackInts (src : Nat → Byte) (slen count : Nat) : List Int := (readElements src slen count 0).1.map decodeElement

/-- The stream position after `count` elements (R100). -/
def unpackEnd (src : Nat → Byte) (slen count : Nat) : Nat := (readElements src slen count 0).2

end Sys2Proof

namespace Sys2Proof.Machine

/-- The region of PACK whose length is known before the data are read (R60, R121). -/
def packOperands {α : Type} (s : State α) : Operands := .sourceOnly (region .qmem s.src0 s.count)

/-- The integers PACK encodes (R97). -/
def packInts {α : Type} (s : State α) : List Int := tabulate s.count (s.intsFrom s.src0)

/-- The bytes PACK writes (R97). -/
def packedBytes {α : Type} (s : State α) : List Byte := packBytes (packInts s)

/-- The state after PACK completes or faults, on a build `p` (R97): the destination is tested once its length is known. -/
def packOn {α : Type} (p : Params) (s : State α) : State α :=
  s.checked p (packOperands s)
    (if (region .bmem s.dst0 (packedBytes s).length).InBounds p then
      ((s.writeB s.dst0 (packedBytes s)).setTrunc (truncates (packInts s))).complete (packedBytes s).length
    else s.raise .bounds)

/-- PACK (R97). -/
def execPack (s : State) : Outcome := .next (packOn Config.params s)

/-- SLEN, the number of available bytes, is SRC1 (R100). -/
def State.slen {α : Type} (s : State α) : Nat := s.src1.toNat

/-- The regions of UNPACK (R60). -/
def unpackOperands {α : Type} (s : State α) : Operands :=
  .oneByOne (region .bmem s.src0 s.slen) (region .qmem s.dst0 s.count)

/-- The integers UNPACK writes (R100). -/
def unpackedInts {α : Type} (s : State α) : List Int := unpackInts (s.bytesFrom s.src0) s.slen s.count

/-- The state after UNPACK completes or faults, on a build `p` (R100). -/
def unpackOn {α : Type} (p : Params) (s : State α) : State α :=
  s.checked p (unpackOperands s)
    (((s.writeQ s.dst0 (unpackedInts s)).setUnderrun
      (underruns s.slen (unpackEnd (s.bytesFrom s.src0) s.slen s.count))).complete 0)

/-- UNPACK (R100). -/
def execUnpack (s : State) : Outcome := .next (unpackOn Config.params s)

end Sys2Proof.Machine
end

