-- ==== Sys2Proof/Machine/FrameWindow.lean ====
section
/-!
DEFINITION. The framer and window family: FRAME, WINA and WINS (41_frame_window.md R77 to R80).
-/

namespace Sys2Proof

/-- The number of blocks FRAME makes of `samples` samples (R77, R78). -/
def blockCount (n samples : Nat) : Nat := samples / n + 1

/-- Word `i` of the blocks FRAME makes of the samples `x`: entry `j` of block `b` is entry `b·N + j` of the stream
padded with N zeros on each side (R77). -/
def frameOf {α : Type} (nm : Numerics α) (n samples : Nat) (x : Nat → α) (i : Nat) : α :=
  let p := i / (2 * n) * n + i % (2 * n)
  if n ≤ p ∧ p < n + samples then x (p - n) else nm.zero

/-- Word `i` of the windowed blocks: entry `j` of a block times `win N j` (R79, R80). -/
def windowOf {α : Type} (nm : Numerics α) (n : Nat) (x : Nat → α) (i : Nat) : α :=
  nm.mul (x i) (nm.win n (i % (2 * n)))

end Sys2Proof

namespace Sys2Proof.Machine

/-- The regions of FRAME (R60). -/
def frameOperands {α : Type} (s : State α) : Operands :=
  .oneByOne (region .rmem s.src0 s.count) (region .rmem s.dst0 (blockCount s.n s.count * (2 * s.n)))

/-- What FRAME writes (R77). -/
def frameWords {α : Type} [Inhabited α] (nm : Numerics α) (s : State α) : List α :=
  tabulate (blockCount s.n s.count * (2 * s.n)) (frameOf nm s.n s.count (s.realsFrom s.src0))

/-- The state after FRAME completes or faults, on a build `p` (R77). -/
def frameOn {α : Type} [Inhabited α] (p : Params) (nm : Numerics α) (s : State α) : State α :=
  s.checked p (frameOperands s) ((s.writeR s.dst0 (frameWords nm s)).complete (blockCount s.n s.count))

/-- FRAME (R77). -/
def execFrame (s : State) : Outcome := .next (frameOn Config.params binary64 s)

/-- The regions of WINA and WINS (R60): CNT blocks of 2N words. -/
def windowOperands {α : Type} (s : State α) : Operands :=
  .oneByOne (region .rmem s.src0 (s.count * (2 * s.n))) (region .rmem s.dst0 (s.count * (2 * s.n)))

/-- What WINA and WINS write (R79, R80). -/
def windowWords {α : Type} [Inhabited α] (nm : Numerics α) (s : State α) : List α :=
  tabulate (s.count * (2 * s.n)) (windowOf nm s.n (s.realsFrom s.src0))

/-- The state after WINA completes or faults, on a build `p` (R79). -/
def winaOn {α : Type} [Inhabited α] (p : Params) (nm : Numerics α) (s : State α) : State α :=
  s.checked p (windowOperands s) ((s.writeR s.dst0 (windowWords nm s)).complete 0)

/-- WINA (R79). -/
def execWina (s : State) : Outcome := .next (winaOn Config.params binary64 s)

/-- The state after WINS completes or faults, on a build `p` (R80). -/
def winsOn {α : Type} [Inhabited α] (p : Params) (nm : Numerics α) (s : State α) : State α :=
  s.checked p (windowOperands s) ((s.writeR s.dst0 (windowWords nm s)).complete 0)

/-- WINS (R80). -/
def execWins (s : State) : Outcome := .next (winsOn Config.params binary64 s)

end Sys2Proof.Machine
end

