-- ==== Sys2Proof/Machine/MidSide.lean ====
section
/-!
DEFINITION. The channel matrix family: MSFWD, MSINV and PCMOUT (40_midside.md R72 to R74).
-/

namespace Sys2Proof

/-- Mid sample `i`: the average of the channels (R72). -/
def midOf {α : Type} (nm : Numerics α) (left right : Nat → α) (i : Nat) : α :=
  nm.divNat (nm.add (left i) (right i)) 2

/-- Side sample `i`: the half-difference, left minus right (R72). -/
def sideOf {α : Type} (nm : Numerics α) (left right : Nat → α) (i : Nat) : α :=
  nm.divNat (nm.sub (left i) (right i)) 2

/-- Left sample `i` (R73). -/
def leftOf {α : Type} (nm : Numerics α) (mid side : Nat → α) (i : Nat) : α := nm.add (mid i) (side i)

/-- Right sample `i` (R73). -/
def rightOf {α : Type} (nm : Numerics α) (mid side : Nat → α) (i : Nat) : α := nm.sub (mid i) (side i)

/-- Output sample `i`: clamped to 16 bits and rounded (R74). -/
def pcmOf {α : Type} (nm : Numerics α) (x : Nat → α) (i : Nat) : Int := nm.rnd (nm.clamp16 (x i))

end Sys2Proof

namespace Sys2Proof.Machine

/-- The regions of MSFWD and MSINV (R60): two sources and two destinations of CNT words of RMEM. -/
def matrixOperands {α : Type} (s : State α) : Operands :=
  .twoByTwo (region .rmem s.src0 s.count) (region .rmem s.src1 s.count)
    (region .rmem s.dst0 s.count) (region .rmem s.dst1 s.count)

/-- What MSFWD writes to DST0, from the source words before the command (R72). -/
def midWords {α : Type} [Inhabited α] (nm : Numerics α) (s : State α) : List α :=
  tabulate s.count (midOf nm (s.realsFrom s.src0) (s.realsFrom s.src1))

/-- What MSFWD writes to DST1 (R72). -/
def sideWords {α : Type} [Inhabited α] (nm : Numerics α) (s : State α) : List α :=
  tabulate s.count (sideOf nm (s.realsFrom s.src0) (s.realsFrom s.src1))

/-- The state after MSFWD completes or faults, on a build `p` (R72). -/
def msfwdOn {α : Type} [Inhabited α] (p : Params) (nm : Numerics α) (s : State α) : State α :=
  s.checked p (matrixOperands s)
    (((s.writeR s.dst0 (midWords nm s)).writeR s.dst1 (sideWords nm s)).complete 0)

/-- MSFWD (R72). -/
def execMsfwd (s : State) : Outcome := .next (msfwdOn Config.params binary64 s)

/-- What MSINV writes to DST0, from the source words before the command (R73). -/
def leftWords {α : Type} [Inhabited α] (nm : Numerics α) (s : State α) : List α :=
  tabulate s.count (leftOf nm (s.realsFrom s.src0) (s.realsFrom s.src1))

/-- What MSINV writes to DST1 (R73). -/
def rightWords {α : Type} [Inhabited α] (nm : Numerics α) (s : State α) : List α :=
  tabulate s.count (rightOf nm (s.realsFrom s.src0) (s.realsFrom s.src1))

/-- The state after MSINV completes or faults, on a build `p` (R73). -/
def msinvOn {α : Type} [Inhabited α] (p : Params) (nm : Numerics α) (s : State α) : State α :=
  s.checked p (matrixOperands s)
    (((s.writeR s.dst0 (leftWords nm s)).writeR s.dst1 (rightWords nm s)).complete 0)

/-- MSINV (R73). -/
def execMsinv (s : State) : Outcome := .next (msinvOn Config.params binary64 s)

/-- The regions of PCMOUT (R60): CNT words of RMEM into CNT words of QMEM. -/
def pcmoutOperands {α : Type} (s : State α) : Operands :=
  .oneByOne (region .rmem s.src0 s.count) (region .qmem s.dst0 s.count)

/-- What PCMOUT writes (R74). -/
def pcmWords {α : Type} [Inhabited α] (nm : Numerics α) (s : State α) : List Int :=
  tabulate s.count (pcmOf nm (s.realsFrom s.src0))

/-- The state after PCMOUT completes or faults, on a build `p` (R74). -/
def pcmoutOn {α : Type} [Inhabited α] (p : Params) (nm : Numerics α) (s : State α) : State α :=
  s.checked p (pcmoutOperands s) ((s.writeQ s.dst0 (pcmWords nm s)).complete 0)

/-- PCMOUT (R74). -/
def execPcmout (s : State) : Outcome := .next (pcmoutOn Config.params binary64 s)

end Sys2Proof.Machine
end

