-- ==== Sys2Proof/Machine/OverlapAdd.lean ====
section
/-!
DEFINITION. The overlap-add family: OLA (44_overlap_add.md R94).
-/

namespace Sys2Proof

/-- The number of samples OLA writes for `blocks` blocks: none for fewer than two (R94). -/
def olaLength (n blocks : Nat) : Nat := (blocks - 1) * n

/-- Output sample `p` of OLA: entry `j` of the second half of block `i` plus entry `j` of the first half of block
`i + 1` (R94). -/
def olaOf {α : Type} (nm : Numerics α) (n : Nat) (x : Nat → α) (p : Nat) : α :=
  nm.add (x (p / n * (2 * n) + n + p % n)) (x ((p / n + 1) * (2 * n) + p % n))

end Sys2Proof

namespace Sys2Proof.Machine

/-- The regions of OLA (R60). -/
def olaOperands {α : Type} (s : State α) : Operands :=
  .oneByOne (region .rmem s.src0 (s.count * (2 * s.n))) (region .rmem s.dst0 (olaLength s.n s.count))

/-- What OLA writes (R94). -/
def olaWords {α : Type} [Inhabited α] (nm : Numerics α) (s : State α) : List α :=
  tabulate (olaLength s.n s.count) (olaOf nm s.n (s.realsFrom s.src0))

/-- The state after OLA completes or faults, on a build `p` (R94). -/
def olaOn {α : Type} [Inhabited α] (p : Params) (nm : Numerics α) (s : State α) : State α :=
  s.checked p (olaOperands s) ((s.writeR s.dst0 (olaWords nm s)).complete (olaLength s.n s.count))

/-- OLA (R94). -/
def execOla (s : State) : Outcome := .next (olaOn Config.params binary64 s)

end Sys2Proof.Machine
end

