-- ==== Sys2Proof/Machine/Quantizer.lean ====
section
/-!
DEFINITION. The quantizer family: QUANT and DEQUANT (43_quantizer.md R89, R90).
-/

namespace Sys2Proof

/-- Integer `i` of the quantized vectors of the coefficients `x`, `k` kept of each `n` (R89): the dropped coefficients
are not read. -/
def quantOf {α : Type} (nm : Numerics α) (n k : Nat) (x : Nat → α) (i : Nat) : Int :=
  nm.rnd (x (i / k * n + i % k))

/-- Word `i` of the coefficient vectors of the quantized vectors `q` (R90): zero at index N - M and above. -/
def dequantOf {α : Type} (nm : Numerics α) (n k : Nat) (q : Nat → Int) (i : Nat) : α :=
  if i % n < k then nm.ofInt (q (i / n * k + i % n)) else nm.zero

/-- An integer fits a signed 32-bit word (R89). -/
def fitsWord (z : Int) : Bool := decide (-2 ^ 31 ≤ z) && decide (z ≤ 2 ^ 31 - 1)

end Sys2Proof

namespace Sys2Proof.Machine

/-- The regions of QUANT (R60). -/
def quantOperands {α : Type} (s : State α) : Operands :=
  .oneByOne (region .rmem s.src0 (s.count * s.n)) (region .qmem s.dst0 (s.count * s.k))

/-- The rounded kept coefficients of all blocks (R89). -/
def quantInts {α : Type} [Inhabited α] (nm : Numerics α) (s : State α) : List Int :=
  tabulate (s.count * s.k) (quantOf nm s.n s.k (s.realsFrom s.src0))

/-- The state after QUANT completes or faults, on a build `p` (R89): a rounded coefficient that does not fit faults
E_RANGE and nothing is written. -/
def quantOn {α : Type} [Inhabited α] (p : Params) (nm : Numerics α) (s : State α) : State α :=
  s.checked p (quantOperands s)
    (if (quantInts nm s).all fitsWord then (s.writeQ s.dst0 (quantInts nm s)).complete 0 else s.raise .range)

/-- QUANT (R89). -/
def execQuant (s : State) : Outcome := .next (quantOn Config.params binary64 s)

/-- The regions of DEQUANT (R60). -/
def dequantOperands {α : Type} (s : State α) : Operands :=
  .oneByOne (region .qmem s.src0 (s.count * s.k)) (region .rmem s.dst0 (s.count * s.n))

/-- What DEQUANT writes (R90). -/
def dequantWords {α : Type} [Inhabited α] (nm : Numerics α) (s : State α) : List α :=
  tabulate (s.count * s.n) (dequantOf nm s.n s.k (s.intsFrom s.src0))

/-- The state after DEQUANT completes or faults, on a build `p` (R90). -/
def dequantOn {α : Type} [Inhabited α] (p : Params) (nm : Numerics α) (s : State α) : State α :=
  s.checked p (dequantOperands s) ((s.writeR s.dst0 (dequantWords nm s)).complete 0)

/-- DEQUANT (R90). -/
def execDequant (s : State) : Outcome := .next (dequantOn Config.params binary64 s)

end Sys2Proof.Machine
end

