-- ==== Sys2Proof/Machine/Transform.lean ====
section
/-!
DEFINITION. The transform family: MDCT and IMDCT (42_transform.md R83, R84).
-/

namespace Sys2Proof

/-- Word `i` of the coefficient vectors of the blocks `x`: coefficient `k` of block `b` (R83). Each product is rounded
before it is added, in ascending order of `j` (R10 b). -/
def mdctOf {α : Type} (nm : Numerics α) (n : Nat) (x : Nat → α) (i : Nat) : α :=
  nm.sum (fun j => nm.mul (x (i / n * (2 * n) + j)) (nm.ker n j (i % n))) (2 * n)

/-- Word `i` of the inverse transform before the snap: sample `i mod 2N` of block `i div 2N` (R84). The scale 2/N is
applied after the sum, as one multiplication (R10 d). -/
def imdctRawOf {α : Type} (nm : Numerics α) (n : Nat) (x : Nat → α) (i : Nat) : α :=
  nm.mul (nm.divNat (nm.ofInt 2) n)
    (nm.sum (fun k => nm.mul (x (i / (2 * n) * n + k)) (nm.ker n (i % (2 * n)) k)) n)

/-- Word `i` of the inverse transform, snapped (R84). -/
def imdctOf {α : Type} (nm : Numerics α) (n : Nat) (x : Nat → α) (i : Nat) : α := nm.snap (imdctRawOf nm n x i)

end Sys2Proof

namespace Sys2Proof.Machine

/-- The regions of MDCT (R60). -/
def mdctOperands {α : Type} (s : State α) : Operands :=
  .oneByOne (region .rmem s.src0 (s.count * (2 * s.n))) (region .rmem s.dst0 (s.count * s.n))

/-- What MDCT writes (R83). -/
def mdctWords {α : Type} [Inhabited α] (nm : Numerics α) (s : State α) : List α :=
  tabulate (s.count * s.n) (mdctOf nm s.n (s.realsFrom s.src0))

/-- The state after MDCT completes or faults, on a build `p` (R83). -/
def mdctOn {α : Type} [Inhabited α] (p : Params) (nm : Numerics α) (s : State α) : State α :=
  s.checked p (mdctOperands s) ((s.writeR s.dst0 (mdctWords nm s)).complete 0)

/-- MDCT (R83). -/
def execMdct (s : State) : Outcome := .next (mdctOn Config.params binary64 s)

/-- The regions of IMDCT (R60). -/
def imdctOperands {α : Type} (s : State α) : Operands :=
  .oneByOne (region .rmem s.src0 (s.count * s.n)) (region .rmem s.dst0 (s.count * (2 * s.n)))

/-- What IMDCT writes (R84). -/
def imdctWords {α : Type} [Inhabited α] (nm : Numerics α) (s : State α) : List α :=
  tabulate (s.count * (2 * s.n)) (imdctOf nm s.n (s.realsFrom s.src0))

/-- The state after IMDCT completes or faults, on a build `p` (R84). -/
def imdctOn {α : Type} [Inhabited α] (p : Params) (nm : Numerics α) (s : State α) : State α :=
  s.checked p (imdctOperands s) ((s.writeR s.dst0 (imdctWords nm s)).complete 0)

/-- IMDCT (R84). -/
def execImdct (s : State) : Outcome := .next (imdctOn Config.params binary64 s)

end Sys2Proof.Machine
end

