-- ==== Sys2Proof/Machine/Dispatch.lean ====
section
/-!
DEFINITION. The dispatch of the thirteen commands (30_encoding.md R59): the completion of a decoded command, steps 2 to 5
of 10_state.md R36.
-/

namespace Sys2Proof.Machine

def exec (i : Instr) (s : State) : Host.Outcome State Fault Refusal :=
  match i with
  | .msfwd => Sys2Proof.Machine.execMsfwd s
  | .frame => Sys2Proof.Machine.execFrame s
  | .wina => Sys2Proof.Machine.execWina s
  | .mdct => Sys2Proof.Machine.execMdct s
  | .quant => Sys2Proof.Machine.execQuant s
  | .pack => Sys2Proof.Machine.execPack s
  | .unpack => Sys2Proof.Machine.execUnpack s
  | .dequant => Sys2Proof.Machine.execDequant s
  | .imdct => Sys2Proof.Machine.execImdct s
  | .wins => Sys2Proof.Machine.execWins s
  | .ola => Sys2Proof.Machine.execOla s
  | .msinv => Sys2Proof.Machine.execMsinv s
  | .pcmout => Sys2Proof.Machine.execPcmout s

end Sys2Proof.Machine
end

