-- ==== Sys2Proof/WellFormed.lean ====
section
/-!
DEFINITION. Well-formedness of the syntax: what its types do not already say. (`Params.wf`, the constraints of R7, stands
beside the record in Config.lean.)
-/

namespace Sys2Proof

/-- A command has no register field, no immediate and no mode bit (R57), so there is nothing to check. -/
abbrev Instr.wf (_ : Instr) : Prop := True

/-- An element of format E (R64): NB fits its 5-bit field and MAG fits its NB bits. -/
abbrev Element.wf (e : Element) : Prop := e.nb < 2 ^ 5 ∧ e.mag < 2 ^ e.nb

/-- The ten commands the pseudo-instruction `OP src, dst, cnt` of R70 is for. -/
def Instr.oneSource : Instr → Bool
  | .frame | .wina | .mdct | .quant | .pack | .dequant | .imdct | .wins | .ola | .pcmout => true
  | .msfwd | .msinv | .unpack => false

/-- A script line (R69, R70): `OP` names one of its ten commands, and the numbers of `config` are 32-bit ones, a negative
one being written as its two's-complement pattern. -/
abbrev ScriptLine.wf {α : Type} : ScriptLine α → Prop
  | .op i _ _ _ => i.oneSource = true
  | .config n m => (-2 ^ 31 ≤ n ∧ n < 2 ^ 32) ∧ (-2 ^ 31 ≤ m ∧ m < 2 ^ 32)
  | _ => True

end Sys2Proof
end

