-- ==== Sys2Proof/Decode.lean ====
section
/-!
DEFINITION. The decoder of the command word, format C (30_encoding.md R57, R59, R61), and the encoder written from the
same table.
-/

namespace Sys2Proof

/-- The field OPC, bits 7:0 of a command word (R57). -/
def opcOf (w : Word) : BitVec 8 := w.extractLsb' 0 8

/-- The field ZERO, bits 31:8 of a command word (R57). -/
def zeroOf (w : Word) : BitVec 24 := w.extractLsb' 8 24

/-- The command of an operation code (R59); every other code is reserved (R61). -/
def instrOfOpc (opc : BitVec 8) : Except Illegal Instr :=
  match opc.toNat with
  | 0x01 => .ok .msfwd
  | 0x02 => .ok .frame
  | 0x03 => .ok .wina
  | 0x04 => .ok .mdct
  | 0x05 => .ok .quant
  | 0x06 => .ok .pack
  | 0x07 => .ok .unpack
  | 0x08 => .ok .dequant
  | 0x09 => .ok .imdct
  | 0x0A => .ok .wins
  | 0x0B => .ok .ola
  | 0x0C => .ok .msinv
  | 0x0D => .ok .pcmout
  | _ => .error (.reservedOpcode opc)

/-- Decode of a command word: legal exactly when bits 31:8 are 0 and OPC is one of 0x01 to 0x0D (R61). -/
def decode (w : Word) : Except Illegal Instr :=
  if zeroOf w = 0 then instrOfOpc (opcOf w) else .error .nonzeroHighBits

/-- The operation code of a command (R59). -/
def opcodeOf : Instr → BitVec 8
  | .msfwd => 0x01
  | .frame => 0x02
  | .wina => 0x03
  | .mdct => 0x04
  | .quant => 0x05
  | .pack => 0x06
  | .unpack => 0x07
  | .dequant => 0x08
  | .imdct => 0x09
  | .wins => 0x0A
  | .ola => 0x0B
  | .msinv => 0x0C
  | .pcmout => 0x0D

/-- The command word of a command: ZERO above OPC (R57). -/
def encode (i : Instr) : Word := (0 : BitVec 24) ++ opcodeOf i

/-- The command word whose table bits are `w`: the bits at `nbits` and above are 0. A word moves whole, so there is no
byte order to lay out (R41). -/
def tableWord (nbits w : Nat) : Word := BitVec.ofNat 32 (w % 2 ^ nbits)

/-- What the decoder reads from an opcode-table row's word. -/
def decodeTableWord (nbits w : Nat) : Option Instr := (decode (tableWord nbits w)).toOption

end Sys2Proof
end

