-- ==== Sys2Proof/Machine/HostPort.lean ====
section
/-!
DEFINITION. The host's side of the block: the four transactions (20_memory.md R38, R54; 10_state.md R19 to R24;
60_exceptions.md R138).
-/

namespace Sys2Proof.Machine

/-- What a CsrRead returns: CTRL and every unmapped index read 0 (R19, R24), and no read has a side effect (R43). -/
def State.csrRead {α : Type} (s : State α) (idx : Word) : Word :=
  match idx.toNat with
  | 1 => s.status
  | 2 => s.cmd
  | 3 => s.res
  | 4 => s.cfgN
  | 5 => s.cfgM
  | 8 => s.src0
  | 9 => s.src1
  | 10 => s.dst0
  | 11 => s.dst1
  | 12 => s.cnt
  | _ => 0

/-- A CsrWrite: ignored while BUSY (R54); to CTRL, a soft reset when bit 0 is 1 (R34); to CMD, acceptance (R35); to
STATUS, RES and unmapped indices, ignored (R138). -/
def State.csrWrite {α : Type} (s : State α) (idx v : Word) : State α :=
  if s.busy then s
  else
    match idx.toNat with
    | 0 => if v.getLsbD 0 then s.softReset else s
    | 2 => s.accept v
    | 4 => { s with cfgN := v }
    | 5 => { s with cfgM := v }
    | 8 => { s with src0 := v }
    | 9 => { s with src1 := v }
    | 10 => { s with dst0 := v }
    | 11 => { s with dst1 := v }
    | 12 => { s with cnt := v }
    | _ => s

/-- A BufRead has a specified value only while BUSY = 0 and at an address of the space (R38, R54). -/
def State.bufReadable {α : Type} (p : Params) (s : State α) (space : Space) (a : Word) : Bool :=
  !s.busy && decide (a.toNat < spaceUnits p space)

/-- What a BufRead returns (R38); where the value is unspecified, the free value of this draw (log entry 6). -/
def State.bufRead {α : Type} [Inhabited α] (p : Params) (s : State α) (space : Space) (a : Word) : Reply α :=
  match space with
  | .rmem => .real (if s.bufReadable p .rmem a then s.readR a.toNat else Config.busReal s.draws)
  | .qmem => .int (if s.bufReadable p .qmem a then s.readQ a.toNat else Config.busInt s.draws)
  | .bmem => .byte (if s.bufReadable p .bmem a then s.readB a.toNat else Config.busByte s.draws)

/-- A BufWrite has an effect only while BUSY = 0 and at an address of the space (R38, R54, R138). -/
def State.bufWritable {α : Type} (p : Params) (s : State α) (space : Space) (a : Word) : Bool :=
  !s.busy && decide (a.toNat < spaceUnits p space)

/-- The host receives a reply. -/
def State.reply {α : Type} (r : Reply α) (s : State α) : State α := { s with replies := r :: s.replies }

/-- One host transaction (R38). -/
def State.transact {α : Type} [Inhabited α] (p : Params) (t : Txn α) (s : State α) : State α :=
  match t with
  | .csrRead idx => s.reply (.word (s.csrRead idx))
  | .csrWrite idx v => s.csrWrite idx v
  | .bufRead space a =>
    { s.reply (s.bufRead p space a) with
      draws := if s.bufReadable p space a then s.draws else s.draws + 1 }
  | .bufWriteR a v => if s.bufWritable p .rmem a then s.writeR a [v] else s
  | .bufWriteQ a v => if s.bufWritable p .qmem a then s.writeQ a [v.toInt] else s
  | .bufWriteB a v => if s.bufWritable p .bmem a then s.writeB a [v] else s

end Sys2Proof.Machine
end

