-- ==== Sys2Proof/Machine/Script.lean ====
section
/-!
DEFINITION. The transactions a host script line and a pseudo-instruction name (30_encoding.md R69, R70).
-/

namespace Sys2Proof.Machine

/-- `csrw NAME, value` (R69). -/
def csrwTurn {α : Type} (r : Reg) (v : Word) : Turn α := .host (.csrWrite r.index v)

/-- `cmd MNEMONIC`: the pair (2, word) (R69). -/
def cmdTurn {α : Type} (i : Instr) : Turn α := csrwTurn .cmd (encode i)

/-- `wait` (R69): the core takes its turn and the host then reads STATUS with BUSY = 0 (log entry 17). -/
def waitTurns {α : Type} : List (Turn α) := [.core, .host (.csrRead Reg.status.index)]

/-- The turns of a script line, in order (R69, R70). -/
def scriptTurns {α : Type} : ScriptLine α → List (Turn α)
  | .csrw r v => [csrwTurn r v]
  | .csrr r => [.host (.csrRead r.index)]
  | .bufwR a v => [.host (.bufWriteR a v)]
  | .bufwQ a v => [.host (.bufWriteQ a v)]
  | .bufwB a v => [.host (.bufWriteB a v)]
  | .bufr space a => [.host (.bufRead space a)]
  | .cmd i => [cmdTurn i]
  | .wait => waitTurns
  | .config n m => [csrwTurn .cfgN (BitVec.ofInt 32 n), csrwTurn .cfgM (BitVec.ofInt 32 m)]
  | .sreset => [csrwTurn .ctrl 1]
  | .msfwd l r mid side cnt =>
    [csrwTurn .src0 l, csrwTurn .src1 r, csrwTurn .dst0 mid, csrwTurn .dst1 side, csrwTurn .cnt cnt,
      cmdTurn .msfwd] ++ waitTurns
  | .msinv mid side l r cnt =>
    [csrwTurn .src0 mid, csrwTurn .src1 side, csrwTurn .dst0 l, csrwTurn .dst1 r, csrwTurn .cnt cnt,
      cmdTurn .msinv] ++ waitTurns
  | .unpack src slen dst cnt =>
    [csrwTurn .src0 src, csrwTurn .src1 slen, csrwTurn .dst0 dst, csrwTurn .cnt cnt, cmdTurn .unpack] ++ waitTurns
  | .op i src dst cnt =>
    [csrwTurn .src0 src, csrwTurn .dst0 dst, csrwTurn .cnt cnt, cmdTurn i] ++ waitTurns

/-- The turns of a whole script. -/
def scriptOf {α : Type} (lines : List (ScriptLine α)) : List (Turn α) := lines.flatMap scriptTurns

end Sys2Proof.Machine
end

