-- ==== Sys2Proof/Machine/HardwareReset.lean ====
section
/-!
DEFINITION. Hardware reset at any time (10_state.md R32, R33; 70_reset_and_hazards.md R139, R140; U4 of
93_implementation_defined.md, log entry 7).
-/

namespace Sys2Proof.Machine

/-- The destination regions of a command (R60), once N and M are known to be valid; PACK's length is that of its data. -/
def destinations {α : Type} (i : Instr) (s : State α) : List Region :=
  match i with
  | .msfwd | .msinv => [region .rmem s.dst0 s.count, region .rmem s.dst1 s.count]
  | .frame => [region .rmem s.dst0 (blockCount s.n s.count * (2 * s.n))]
  | .wina | .wins | .imdct => [region .rmem s.dst0 (s.count * (2 * s.n))]
  | .mdct | .dequant => [region .rmem s.dst0 (s.count * s.n)]
  | .quant => [region .qmem s.dst0 (s.count * s.k)]
  | .pack => [region .bmem s.dst0 (packedBytes s).length]
  | .unpack | .pcmout => [region .qmem s.dst0 s.count]
  | .ola => [region .rmem s.dst0 (olaLength s.n s.count)]

/-- The destination regions of the pending command: none where CMD is illegal or the configuration is invalid, since no
region is formed then (R121). -/
def pendingDestinations {α : Type} (p : Params) (s : State α) : List Region :=
  match decode s.cmd with
  | .ok i => if ConfigValid p s then destinations i s else []
  | .error _ => []

/-- The number of units of a region that lie in its space. -/
def Region.unitsIn (p : Params) (r : Region) : Nat := min r.len (spaceUnits p r.space - r.base)

/-- The values of `f` at the addresses of a region that lie in its space. -/
def Region.values {β : Type} (p : Params) (r : Region) (f : Nat → β) : List β :=
  tabulate (r.unitsIn p) (fun i => f (r.base + i))

/-- Every unit of a region holds an unspecified value, that of this draw. -/
def State.unspecify {α : Type} [Inhabited α] (p : Params) (r : Region) (s : State α) : State α :=
  match r.space with
  | .rmem => { s with rmem := Memory.writeRegion r.base (r.values p (Config.abandonedReal s.draws)) s.rmem }
  | .qmem => { s with qmem := Memory.writeRegion r.base (r.values p (Config.abandonedInt s.draws)) s.qmem }
  | .bmem => { s with bmem := Memory.writeRegion r.base (r.values p (Config.abandonedByte s.draws)) s.bmem }

/-- Hardware reset while a command is pending (R32, U4): the registers take their reset values, every unit of the
abandoned command's destination regions is unspecified, and all other memory keeps its contents. -/
def State.abandonReset {α : Type} [Inhabited α] (p : Params) (s : State α) : State α :=
  let t := (pendingDestinations p s).foldl (fun u r => u.unspecify p r) s
  { t.softReset with draws := s.draws + 1 }

/-- Hardware reset (R139): it may come at any time. -/
def State.hardwareReset {α : Type} [Inhabited α] (p : Params) (s : State α) : State α :=
  if s.busy then s.abandonReset p else s.powerReset

end Sys2Proof.Machine
end

