-- ==== Sys2Proof/Machine/Turns.lean ====
section
/-!
DEFINITION. The turns of the machine (10_state.md R17, R36, R37; 70_reset_and_hazards.md R139), and the block with its
build parameters, NMAX, RWORDS, QWORDS, BBYTES and NUM, as arguments (00_scope.md R7, R10).
-/

namespace Sys2Proof.Machine

/-- The core's turn (R36): with a command pending, its completion step, which decodes CMD (step 1: an illegal word
faults E_ILLEGAL) and runs the command; with none, nothing (R17). -/
def coreTurnWith {α : Type} (run : Instr → State α → Host.Outcome (State α) Fault Refusal) (s : State α) :
    Host.Outcome (State α) Fault Refusal :=
  if s.busy then
    match decode s.cmd with
    | .ok i => run i s
    | .error _ => .next (s.raise .illegal)
  else .next s

/-- One step: the first of the pending turns, or the core's when none is left (log entry 8). -/
def stepWith {α : Type} [Inhabited α] (p : Params) (run : Instr → State α → Host.Outcome (State α) Fault Refusal)
    (s : State α) : Host.Outcome (State α) Fault Refusal :=
  match s.turns with
  | [] => coreTurnWith run s
  | .core :: rest => coreTurnWith run { s with turns := rest }
  | .host t :: rest => .next (State.transact p t { s with turns := rest })
  | .hardwareReset :: rest => .next (State.hardwareReset p { s with turns := rest })

/-- A decoded command on a build `p` in the numerics `nm` (R7, R10). -/
def execOn {α : Type} [Inhabited α] (p : Params) (nm : Numerics α) (i : Instr) (s : State α) :
    Host.Outcome (State α) Fault Refusal :=
  match i with
  | .msfwd => .next (msfwdOn p nm s)
  | .frame => .next (frameOn p nm s)
  | .wina => .next (winaOn p nm s)
  | .mdct => .next (mdctOn p nm s)
  | .quant => .next (quantOn p nm s)
  | .pack => .next (packOn p s)
  | .unpack => .next (unpackOn p s)
  | .dequant => .next (dequantOn p nm s)
  | .imdct => .next (imdctOn p nm s)
  | .wins => .next (winsOn p nm s)
  | .ola => .next (olaOn p nm s)
  | .msinv => .next (msinvOn p nm s)
  | .pcmout => .next (pcmoutOn p nm s)

/-- One step of the block on a build `p` in the numerics `nm`. -/
def stepOn {α : Type} [Inhabited α] (p : Params) (nm : Numerics α) (s : State α) :
    Host.Outcome (State α) Fault Refusal := stepWith p (execOn p nm) s

end Sys2Proof.Machine
end

