-- ==== Sys2Proof/Machine/Step.lean ====
section
/-!
DEFINITION. One step at the default build parameters (Machine/Turns.lean), and the placing of a command word.
-/

namespace Sys2Proof.Machine

/-- The core's turn at the default build parameters. -/
def coreTurn (s : State) : Host.Outcome State Fault Refusal := coreTurnWith exec s

/-- One step at the default build parameters. -/
def step (s : State) : Host.Outcome State Fault Refusal := stepWith Config.params exec s

/-- `s` with a command word accepted into CMD and the core to move next, so that the very next step completes exactly
that command (log entry 13). -/
def State.withFetchWord (s : State) (nbits w : Nat) : State :=
  { s with
    cmd := tableWord nbits w, busy := true, done := false, fault := false, trunc := false, underrun := false,
    errcode := 0, turns := .core :: s.turns }

end Sys2Proof.Machine
end

