-- ==== Sys2Proof/Machine/Reference.lean ====
section
/-!
DEFINITION. The reference instance of the numerics (00_scope.md R9): exact reals, "the normative meaning of every
real-valued result". The machine does not run on it; the laws of the spec about real results are stated at it.
-/

namespace Sys2Proof

/-- The exact reals with `win`, `ker`, `rnd`, `snap` and `clamp16` of R11 to R15. -/
noncomputable def reference : Numerics ℝ where
  zero := 0
  add := fun a b => a + b
  sub := fun a b => a - b
  mul := fun a b => a * b
  divNat := fun a d => a / d
  ofInt := fun z => z
  win := fun n j => Real.sin (Real.pi / (2 * n) * (j + 1 / 2))
  ker := fun n i k => Real.cos (Real.pi / n * (i + 1 / 2 + n / 2) * (k + 1 / 2))
  rnd := fun v => if 0 ≤ v then ⌊v + 1 / 2⌋ else -⌊-v + 1 / 2⌋
  snap := fun v => if |v| < 1 / 10 ^ 10 then 0 else v
  clamp16 := fun v => if v < -32768 then -32768 else if 32767 < v then 32767 else v

end Sys2Proof
end

