-- ==== Sys2Proof/Safety.lean ====
section
/-!
DEFINITION. The terms the statements use: a legal STATUS, sound memories and the invariant of the machine; a run that
ended well (70_reset_and_hazards.md R144); the conditions under which a command completes, written in the spec's own
terms and not in those of the checks; what a completed command leaves alone; and the regions of every command as one
table (30_encoding.md R60).
-/

namespace Sys2Proof.Machine

/-- The legal combinations of STATUS (R20), with only the codes of R120. -/
abbrev LegalStatus {α : Type} (s : State α) : Prop :=
  ¬ (s.busy = true ∧ s.done = true) ∧ ¬ (s.busy = true ∧ s.fault = true) ∧ ¬ (s.done = true ∧ s.fault = true) ∧
  ((s.trunc = true ∨ s.underrun = true) → s.done = true) ∧ (s.errcode ≠ 0 ↔ s.fault = true) ∧ s.errcode.toNat ≤ 5

/-- Every memory is in its canonical form and lists addresses of its space only (R28 to R30). -/
abbrev SoundMemories {α : Type} (p : Params) (s : State α) : Prop :=
  (Memory.wf s.rmem ∧ Memory.within p.rwords s.rmem) ∧ (Memory.wf s.qmem ∧ Memory.within p.qwords s.qmem) ∧
  (Memory.wf s.bmem ∧ Memory.within p.bbytes s.bmem)

/-- The invariant of the block on a build `p`, in any carrier. -/
abbrev InvOn {α : Type} (p : Params) (s : State α) : Prop := LegalStatus s ∧ SoundMemories p s

/-- The invariant of the machine at the default build parameters. -/
abbrev Inv (s : State) : Prop := InvOn Config.params s

/-- A host's run ended well (R144): the last command completed and nothing faulted. -/
abbrev EndedWell (s : State) : Prop := s.busy = false ∧ s.fault = false ∧ s.done = true

/-- CFG_N and CFG_M hold `n` and `m`, a valid pair (R22). -/
abbrev ConfiguredAs (s : State) (n m : Nat) : Prop :=
  s.cfgN.toInt = n ∧ s.cfgM.toInt = m ∧ 1 ≤ n ∧ n ≤ Config.params.nmax ∧ m < n

/-- The `len` units from `base` on lie in a space of `size` units, an empty region everywhere (R47). -/
abbrev Fits (base : Word) (len size : Nat) : Prop := len = 0 ∨ base.toNat + len ≤ size

/-- Two regions of one space share no unit (R48). -/
abbrev Apart (base1 : Word) (len1 : Nat) (base2 : Word) (len2 : Nat) : Prop :=
  len1 = 0 ∨ len2 = 0 ∨ base1.toNat + len1 ≤ base2.toNat ∨ base2.toNat + len2 ≤ base1.toNat

/-- The registers that no command writes (R23, R53), the fault bits, and the model's own fields, are the same. -/
def Kept (s t : State) : Prop :=
  t.fault = s.fault ∧ t.errcode = s.errcode ∧ t.cmd = s.cmd ∧ t.cfgN = s.cfgN ∧ t.cfgM = s.cfgM ∧
  t.src0 = s.src0 ∧ t.src1 = s.src1 ∧ t.dst0 = s.dst0 ∧ t.dst1 = s.dst1 ∧ t.cnt = s.cnt ∧
  t.resets = s.resets ∧ t.draws = s.draws ∧ t.turns = s.turns ∧ t.replies = s.replies

/-- A fault-free completion that writes `res` into RES and keeps every other register (R36). -/
def Completed (s t : State) (res : Nat) : Prop :=
  t.busy = false ∧ t.done = true ∧ t.res.toNat = res ∧ Kept s t

/-- The informational flags are the same. -/
def FlagsKept (s t : State) : Prop := t.trunc = s.trunc ∧ t.underrun = s.underrun

/-- Every unit outside the `len` units from `base` on reads as before. -/
def SameOutside {α : Type} (before after : List (Nat × α)) (base : Word) (len : Nat) : Prop :=
  ∀ a, a < base.toNat ∨ base.toNat + len ≤ a → Memory.read after a = Memory.read before a

/-- Every unit of a memory reads as before. -/
def SameMemory {α : Type} (before after : List (Nat × α)) : Prop :=
  ∀ a, Memory.read after a = Memory.read before a

/-- Fault entry (R123): BUSY 0, FAULT 1, the code, and nothing else changed. -/
def Faulted (s t : State) (e : ErrCode) : Prop :=
  t = { s with busy := false, fault := true, errcode := e.bits }

/-- The source regions of a command, from the table of R60: space, base and length. -/
def sourceTable (i : Instr) (s : State) (n m : Nat) : List (Space × Nat × Nat) :=
  match i with
  | .msfwd | .msinv => [(.rmem, s.src0.toNat, s.cnt.toNat), (.rmem, s.src1.toNat, s.cnt.toNat)]
  | .frame | .pcmout => [(.rmem, s.src0.toNat, s.cnt.toNat)]
  | .wina | .wins | .mdct | .ola => [(.rmem, s.src0.toNat, s.cnt.toNat * (2 * n))]
  | .quant | .imdct => [(.rmem, s.src0.toNat, s.cnt.toNat * n)]
  | .pack => [(.qmem, s.src0.toNat, s.cnt.toNat)]
  | .unpack => [(.bmem, s.src0.toNat, s.src1.toNat)]
  | .dequant => [(.qmem, s.src0.toNat, s.cnt.toNat * (n - m))]

/-- The destination regions of fixed length of a command, from the table of R60; PACK's length is its data's. -/
def targetTable (i : Instr) (s : State) (n m : Nat) : List (Space × Nat × Nat) :=
  match i with
  | .msfwd | .msinv => [(.rmem, s.dst0.toNat, s.cnt.toNat), (.rmem, s.dst1.toNat, s.cnt.toNat)]
  | .frame => [(.rmem, s.dst0.toNat, (s.cnt.toNat / n + 1) * (2 * n))]
  | .wina | .wins | .imdct => [(.rmem, s.dst0.toNat, s.cnt.toNat * (2 * n))]
  | .mdct | .dequant => [(.rmem, s.dst0.toNat, s.cnt.toNat * n)]
  | .quant => [(.qmem, s.dst0.toNat, s.cnt.toNat * (n - m))]
  | .pack => []
  | .unpack | .pcmout => [(.qmem, s.dst0.toNat, s.cnt.toNat)]
  | .ola => [(.rmem, s.dst0.toNat, (s.cnt.toNat - 1) * n)]

/-- The size of a space of the build (R39). -/
def unitsOf : Space → Nat
  | .rmem => Config.params.rwords
  | .qmem => Config.params.qwords
  | .bmem => Config.params.bbytes

/-- A region of the table is in bounds (R47). -/
def TableFits (r : Space × Nat × Nat) : Prop := r.2.2 = 0 ∨ r.2.1 + r.2.2 ≤ unitsOf r.1

/-- Two regions of the table overlap (R48). -/
def TableMeets (a b : Space × Nat × Nat) : Prop :=
  a.1 = b.1 ∧ 0 < a.2.2 ∧ 0 < b.2.2 ∧ a.2.1 < b.2.1 + b.2.2 ∧ b.2.1 < a.2.1 + a.2.2

/-- All regions whose length is known before the data are in bounds (R36 step 3). -/
def AllFit (i : Instr) (s : State) (n m : Nat) : Prop :=
  ∀ r ∈ sourceTable i s n m ++ targetTable i s n m, TableFits r

/-- Some destination overlaps a source or another destination (R36 step 4, R48: a pair of sources is exempt). -/
def SomeMeet (i : Instr) (s : State) (n m : Nat) : Prop :=
  (∃ a ∈ sourceTable i s n m, ∃ b ∈ targetTable i s n m, TableMeets a b) ∨
  ∃ b c rest, targetTable i s n m = b :: c :: rest ∧ TableMeets b c

/-- The unit of a space holds the same value for a command in both states (R55: an unwritten one its unspecified value). -/
def SameUnit (space : Space) (s t : State) (a : Nat) : Prop :=
  match space with
  | .rmem => s.readR a = t.readR a
  | .qmem => s.readQ a = t.readQ a
  | .bmem => s.readB a = t.readB a

/-- A unit of a space has been written. -/
def UnitWritten (space : Space) (s : State) (a : Nat) : Prop :=
  match space with
  | .rmem => (Memory.read s.rmem a).isSome
  | .qmem => (Memory.read s.qmem a).isSome
  | .bmem => (Memory.read s.bmem a).isSome

/-- A unit of a space reads the same in both states. -/
def UnitKept (space : Space) (s t : State) (a : Nat) : Prop :=
  match space with
  | .rmem => Memory.read t.rmem a = Memory.read s.rmem a
  | .qmem => Memory.read t.qmem a = Memory.read s.qmem a
  | .bmem => Memory.read t.bmem a = Memory.read s.bmem a

/-- The regions a completed command has written (R49): the table's, and for PACK the RES bytes from DST0 on (R97). -/
def writtenTable (i : Instr) (s t : State) (n m : Nat) : List (Space × Nat × Nat) :=
  if i = .pack then [(.bmem, s.dst0.toNat, t.res.toNat)] else targetTable i s n m

/-- The destination regions of a pending command (R60): the table's, and for PACK the bytes of its data from DST0 on. -/
def pendingTable (i : Instr) (s : State) (n m : Nat) : List (Space × Nat × Nat) :=
  if i = .pack then
    [(.bmem, s.dst0.toNat, (packBytes (tabulate s.cnt.toNat (fun e => (s.readQ (s.src0.toNat + e)).toInt))).length)]
  else targetTable i s n m

/-- A unit holds the unspecified value that the `draw`-th event leaves in a destination of an abandoned command (U4). -/
def UnitUnspecified (space : Space) (draw : Nat) (t : State) (a : Nat) : Prop :=
  match space with
  | .rmem => Memory.read t.rmem a = some (Config.abandonedReal draw a)
  | .qmem => Memory.read t.qmem a = some (Config.abandonedInt draw a)
  | .bmem => Memory.read t.bmem a = some (Config.abandonedByte draw a)

/-- An address lies in a region of the table. -/
def InTable (r : Space × Nat × Nat) (a : Nat) : Prop := r.2.1 ≤ a ∧ a < r.2.1 + r.2.2

/-- The largest finite binary64 value. -/
def largestF64 : F64 := ⟨false, 2046, BitVec.allOnes 52⟩

/-- `x` is `v` rounded to nearest, ties to even (R10 a): no finite value is nearer to `v`, and where another is as near,
the last fraction bit of `x` is 0. -/
def NearestEven (x : F64) (v : ℚ) : Prop :=
  ∀ y : F64, |x.toRat - v| ≤ |y.toRat - v| ∧
    (|x.toRat - v| = |y.toRat - v| → y.toRat ≠ x.toRat → x.fraction.getLsbD 0 = false)

/-- The control and operand registers a command depends on are the same (R49). -/
def SameOperands (s t : State) : Prop :=
  t.cfgN = s.cfgN ∧ t.cfgM = s.cfgM ∧ t.src0 = s.src0 ∧ t.src1 = s.src1 ∧ t.dst0 = s.dst0 ∧ t.dst1 = s.dst1 ∧
  t.cnt = s.cnt

end Sys2Proof.Machine
end

