-- ==== Sys2Proof/Certificates/Slice0/Obligations.lean ====
section
/-!
DEFINITION. The statements for the provers. Each docstring names the rule of spec/ it formalises. Where the free values of
the model (unwritten units, factors, results beyond the format) occur, a statement holds for every value of them.
-/

open Sys2Proof Sys2Proof.Machine

/-! ### Encoding -/

/-- R59: the thirteen command words. -/
def Obligations.CommandWordsDecode : Prop :=
  decode 0x00000001 = .ok .msfwd ∧ decode 0x00000002 = .ok .frame ∧ decode 0x00000003 = .ok .wina ∧
  decode 0x00000004 = .ok .mdct ∧ decode 0x00000005 = .ok .quant ∧ decode 0x00000006 = .ok .pack ∧
  decode 0x00000007 = .ok .unpack ∧ decode 0x00000008 = .ok .dequant ∧ decode 0x00000009 = .ok .imdct ∧
  decode 0x0000000A = .ok .wins ∧ decode 0x0000000B = .ok .ola ∧ decode 0x0000000C = .ok .msinv ∧
  decode 0x0000000D = .ok .pcmout

/-- R57, R59, R61: the decoder and the encoder are inverse to each other, on all commands and on all words. -/
def Obligations.DecodeEncodeAgree : Prop :=
  (∀ i : Instr, decode (encode i) = .ok i) ∧ ∀ (w : Word) (i : Instr), decode w = .ok i → encode i = w

/-- R61: which words are legal, and what an illegal one does: it is accepted, CMD keeps it, and it faults E_ILLEGAL with
no other effect. -/
def Obligations.LegalCommandWords : Prop :=
  ∀ w : Word,
    ((∃ i, decode w = .ok i) ↔ w.toNat / 256 = 0 ∧ 1 ≤ w.toNat % 256 ∧ w.toNat % 256 ≤ 13) ∧
    ∀ s : State, s.busy = false → s.fault = false →
      (s.accept w).cmd = w ∧ (s.accept w).busy = true ∧
      ((∀ i, decode w ≠ .ok i) → ∃ t, coreTurn (s.accept w) = .next t ∧ Faulted (s.accept w) t .illegal)

/-! ### The machine as a whole -/

/-- The invariant holds right after reset (R32, R33). -/
def Obligations.ResetMeetsInvariant : Prop := Inv State.reset

/-- R20, R28 to R30: every step, whoever takes it, keeps STATUS a legal combination and every memory in its canonical
form and inside its space; and so does every step of the block on every other build and in every other numerics (R7). -/
def Obligations.StepKeepsInvariant : Prop :=
  (∀ s t : State, Inv s → step s = .next t → Inv t) ∧
  ∀ (α : Type) [Inhabited α] (p : Params) (nm : Numerics α) (s t : State α),
    InvOn p s → stepOn p nm s = .next t → InvOn p t

/-- The next step completes the pending command when the turn is the core's: `step` is `exec` of the decoded word, the
turn used up; an illegal word faults instead (R36 step 1). And `exec` and `step` are those of the block that takes its
build parameters as arguments, at R7's defaults (log entry 2). -/
def Obligations.StepRunsDecodedCommand : Prop :=
  (∀ (s : State) (rest : List Turn), s.busy = true →
    (s.turns = .core :: rest ∨ (s.turns = [] ∧ rest = [])) →
    (∀ i, i.wf → decode s.cmd = .ok i → step s = exec i { s with turns := rest }) ∧
    ((∀ i, decode s.cmd ≠ .ok i) →
      step s = .next { s with turns := rest, busy := false, fault := true, errcode := 1 })) ∧
  (∀ (i : Instr) (s : State), exec i s = execOn Config.params binary64 i s) ∧
  ∀ s : State, step s = stepOn Config.params binary64 s

/-- R121, R122: the checks of every command and their order: E_ILLEGAL, E_CONFIG, E_BOUNDS, E_OVERLAP, then E_RANGE of
QUANT and E_BOUNDS on the destination of PACK. -/
def Obligations.CommandFaults : Prop :=
  (∀ s : State, s.busy = true → (∀ i, decode s.cmd ≠ .ok i) →
    ∃ t, coreTurn s = .next t ∧ Faulted s t .illegal) ∧
  ∀ (i : Instr) (s : State),
    (¬ (1 ≤ s.cfgN.toInt ∧ s.cfgN.toInt ≤ Config.params.nmax ∧ 0 ≤ s.cfgM.toInt ∧ s.cfgM.toInt < s.cfgN.toInt) →
      ∃ t, exec i s = .next t ∧ Faulted s t .config) ∧
    ∀ n m : Nat, ConfiguredAs s n m →
      (¬ AllFit i s n m → ∃ t, exec i s = .next t ∧ Faulted s t .bounds) ∧
      (AllFit i s n m → SomeMeet i s n m → ∃ t, exec i s = .next t ∧ Faulted s t .overlap) ∧
      (i = .quant → AllFit i s n m →
        (∃ b j, b < s.cnt.toNat ∧ j < n - m ∧
          ((s.readR (s.src0.toNat + (b * n + j))).rnd < -2 ^ 31 ∨
            2 ^ 31 - 1 < (s.readR (s.src0.toNat + (b * n + j))).rnd)) →
        ∃ t, exec i s = .next t ∧ Faulted s t .range) ∧
      (i = .pack → AllFit i s n m →
        ¬ Fits s.dst0 (packBytes (tabulate s.cnt.toNat (fun e => (s.readQ (s.src0.toNat + e)).toInt))).length
          Config.params.bbytes →
        ∃ t, exec i s = .next t ∧ Faulted s t .bounds)

/-- R123: whatever fault a pending command ends in, BUSY, FAULT and ERRCODE change and nothing else; DONE, TRUNC and
UNDERRUN stay 0. -/
def Obligations.FaultEntry : Prop :=
  ∀ s t : State, LegalStatus s → s.busy = true → coreTurn s = .next t → t.fault = true →
    ∃ e, Faulted s t e ∧ t.done = false ∧ t.trunc = false ∧ t.underrun = false

/-- R126: while FAULT = 1 no second fault occurs: a step that is not a reset leaves FAULT, ERRCODE, CMD and RES and
starts no command. (`turns` only tells which move the step is, log entry 8.) -/
def Obligations.SecondFaultImpossible : Prop :=
  ∀ s t : State, Inv s → s.fault = true → step s = .next t →
    (t.fault = true ∧ t.errcode = s.errcode ∧ t.cmd = s.cmd ∧ t.res = s.res ∧ t.busy = false) ∨
    (∃ rest, s.turns = .hardwareReset :: rest) ∨
    ∃ v rest, s.turns = .host (.csrWrite 0 v) :: rest ∧ v.getLsbD 0 = true

/-- R34: the soft reset, what it keeps, that it is ignored while BUSY, and that no other step but a hardware reset clears
FAULT. (`turns` only tells which move the step is, log entry 8.) -/
def Obligations.SoftResetRule : Prop :=
  (∀ (s : State) (v : Word), s.busy = false → v.getLsbD 0 = true →
    State.transact Config.params (.csrWrite 0 v) s =
      { s with
        busy := false, done := false, fault := false, trunc := false, underrun := false, errcode := 0, cmd := 0,
        res := 0, cfgN := 0, cfgM := 0, src0 := 0, src1 := 0, dst0 := 0, dst1 := 0, cnt := 0 }) ∧
  (∀ (s : State) (v : Word), s.busy = true → State.transact Config.params (.csrWrite 0 v) s = s) ∧
  ∀ s t : State, s.fault = true → step s = .next t → t.fault = false →
    (∃ rest, s.turns = .hardwareReset :: rest) ∨
    ∃ v rest, s.turns = .host (.csrWrite 0 v) :: rest ∧ v.getLsbD 0 = true ∧ s.busy = false

/-- R32: the registers after a hardware reset, at power-on and at any later time, with no command pending. The memories:
of a block that was idle every unit is unspecified (R33); of a block that was busy every unit of the abandoned command's
destination regions is unspecified and every other unit keeps its contents (U4, log entry 7). -/
def Obligations.HardwareResetRule : Prop :=
  (∀ s t : State, t = s.hardwareReset Config.params ∨ t = State.reset →
    t.busy = false ∧ t.done = false ∧ t.fault = false ∧ t.trunc = false ∧ t.underrun = false ∧ t.errcode = 0 ∧
    t.cmd = 0 ∧ t.res = 0 ∧ t.cfgN = 0 ∧ t.cfgM = 0 ∧ t.src0 = 0 ∧ t.src1 = 0 ∧ t.dst0 = 0 ∧ t.dst1 = 0 ∧ t.cnt = 0) ∧
  (∀ s t : State, (s.busy = false ∧ t = s.hardwareReset Config.params) ∨ t = State.reset →
    ∀ a, Memory.read t.rmem a = none ∧ Memory.read t.qmem a = none ∧ Memory.read t.bmem a = none) ∧
  ∀ s t : State, s.busy = true → t = s.hardwareReset Config.params →
    (∀ (i : Instr) (n m : Nat), decode s.cmd = .ok i → ConfiguredAs s n m → ∀ (space : Space) (a : Nat),
      ((∀ r ∈ pendingTable i s n m, r.1 = space → ¬ InTable r a) → UnitKept space s t a ∧ SameUnit space s t a) ∧
      (∀ r ∈ pendingTable i s n m, r.1 = space → InTable r a → a < unitsOf space →
        UnitUnspecified space s.draws t a)) ∧
    ((∀ i, decode s.cmd ≠ .ok i) ∨ ¬ ConfigValid Config.params s →
      ∀ (space : Space) (a : Nat), UnitKept space s t a ∧ SameUnit space s t a)

/-- R141: after either reset the block is idle with CFG_N = 0, and every command then faults E_CONFIG. -/
def Obligations.ResetConfigurationRefuses : Prop :=
  (∀ s t : State, t = State.reset ∨ t = s.hardwareReset Config.params ∨ t = s.softReset → t.busy = false ∧ t.cfgN = 0) ∧
  ∀ (i : Instr) (s : State), s.cfgN = 0 → ∃ t, exec i s = .next t ∧ Faulted s t .config

/-- R53: no command writes CMD, the operand registers or the configuration registers. -/
def Obligations.CommandKeepsControl : Prop :=
  ∀ (i : Instr) (s t : State), exec i s = .next t →
    t.cmd = s.cmd ∧ t.cfgN = s.cfgN ∧ t.cfgM = s.cfgM ∧ t.src0 = s.src0 ∧ t.src1 = s.src1 ∧ t.dst0 = s.dst0 ∧
    t.dst1 = s.dst1 ∧ t.cnt = s.cnt

/-- R49: what a command writes is a function of its source units, of N and M and of its operands, and of nothing else:
two states that agree on them fault alike or complete with the same destination units and RES. And a completed command
writes every unit of its destination regions and no other unit of any memory. -/
def Obligations.CommandIsFunctionOfSources : Prop :=
  ∀ (i : Instr) (s₁ s₂ t₁ t₂ : State) (n m : Nat), ConfiguredAs s₁ n m → SameOperands s₁ s₂ →
    (∀ r ∈ sourceTable i s₁ n m, ∀ a, InTable r a → SameUnit r.1 s₁ s₂ a) →
    exec i s₁ = .next t₁ → exec i s₂ = .next t₂ →
    (∃ e, Faulted s₁ t₁ e ∧ Faulted s₂ t₂ e) ∨
    (Completed s₁ t₁ t₁.res.toNat ∧ Completed s₂ t₂ t₁.res.toNat ∧
      (∀ r ∈ writtenTable i s₁ t₁ n m, ∀ a, InTable r a → UnitWritten r.1 t₁ a ∧ UnitKept r.1 t₁ t₂ a) ∧
      ∀ (space : Space) (a : Nat),
        (∀ r ∈ writtenTable i s₁ t₁ n m, r.1 = space → ¬ InTable r a) → UnitKept space s₁ t₁ a)

/-- R152: where no hardware reset is pending, the completion step of a pending command is taken in the end, whatever the
host does before it: the state reached is the one `coreTurn` gives, DONE or FAULT set. And BUSY falls in any case: a
hardware reset before it abandons the command (R32). -/
def Obligations.CompletionIsEventuallyTaken : Prop :=
  ∀ s : State, s.busy = true →
    (Turn.hardwareReset ∉ s.turns → ∃ (k : Nat) (rest : List Turn) (replies : List Reply) (draws : Nat) (t : State),
      k ≤ s.turns.length + 1 ∧ coreTurn { s with turns := rest, replies := replies, draws := draws } = .next t ∧
      Host.Core.run core k s = .next t ∧ t.busy = false ∧ (t.done = true ∨ t.fault = true)) ∧
    ∃ (k : Nat) (t : State), k ≤ s.turns.length + 1 ∧ Host.Core.run core k s = .next t ∧ t.busy = false

/-! ### The host's side -/

/-- R35: acceptance of a command word. -/
def Obligations.AcceptanceRule : Prop :=
  ∀ (s : State) (w : Word),
    (s.busy = false ∧ s.fault = false →
      State.transact Config.params (.csrWrite 2 w) s =
        { s with cmd := w, busy := true, done := false, trunc := false, underrun := false }) ∧
    (s.busy = true ∨ s.fault = true → State.transact Config.params (.csrWrite 2 w) s = s)

/-- R19: CTRL reads 0, only bit 0 of a written value counts, and a write while BUSY or with bit 0 = 0 does nothing. -/
def Obligations.ControlRegisterRule : Prop :=
  ∀ (s : State) (v : Word),
    s.csrRead 0 = 0 ∧ (s.busy = true → s.csrWrite 0 v = s) ∧ (v.getLsbD 0 = false → s.csrWrite 0 v = s) ∧
    (s.busy = false → v.getLsbD 0 = true → s.csrWrite 0 v = s.softReset)

/-- R24: the register index map, for reads and for the writes of an idle block. -/
def Obligations.RegisterIndexMap : Prop :=
  ∀ s : State,
    s.csrRead 0 = 0 ∧ s.csrRead 1 = s.status ∧ s.csrRead 2 = s.cmd ∧ s.csrRead 3 = s.res ∧ s.csrRead 4 = s.cfgN ∧
    s.csrRead 5 = s.cfgM ∧ s.csrRead 8 = s.src0 ∧ s.csrRead 9 = s.src1 ∧ s.csrRead 10 = s.dst0 ∧
    s.csrRead 11 = s.dst1 ∧ s.csrRead 12 = s.cnt ∧
    (∀ idx v : Word, idx = 6 ∨ idx = 7 ∨ 13 ≤ idx.toNat → s.csrRead idx = 0 ∧ s.csrWrite idx v = s) ∧
    ∀ v : Word, s.busy = false →
      s.csrWrite 2 v = s.accept v ∧ s.csrWrite 4 v = { s with cfgN := v } ∧ s.csrWrite 5 v = { s with cfgM := v } ∧
      s.csrWrite 8 v = { s with src0 := v } ∧ s.csrWrite 9 v = { s with src1 := v } ∧
      s.csrWrite 10 v = { s with dst0 := v } ∧ s.csrWrite 11 v = { s with dst1 := v } ∧
      s.csrWrite 12 v = { s with cnt := v }

/-- R20, the layout of STATUS: every field at its bits, every reserved bit 0. -/
def Obligations.StatusLayout : Prop :=
  ∀ s : State, s.csrRead 1 = s.status ∧
    s.status.getLsbD 0 = s.busy ∧ s.status.getLsbD 1 = s.done ∧ s.status.getLsbD 2 = s.fault ∧
    s.status.getLsbD 4 = s.trunc ∧ s.status.getLsbD 5 = s.underrun ∧ s.status.extractLsb' 8 4 = s.errcode ∧
    ∀ j, j = 3 ∨ j = 6 ∨ j = 7 ∨ 12 ≤ j → s.status.getLsbD j = false

/-- R54: the host while BUSY = 1: register reads return current values, every write is ignored, and a buffer read
returns an unspecified value and changes nothing of the block. -/
def Obligations.BusyHostAccess : Prop :=
  ∀ s : State, s.busy = true →
    (∀ idx, State.transact Config.params (.csrRead idx) s = { s with replies := .word (s.csrRead idx) :: s.replies }) ∧
    (∀ idx v, State.transact Config.params (.csrWrite idx v) s = s) ∧
    (∀ a v, State.transact Config.params (.bufWriteR a v) s = s) ∧
    (∀ a v, State.transact Config.params (.bufWriteQ a v) s = s) ∧
    (∀ a v, State.transact Config.params (.bufWriteB a v) s = s) ∧
    (∀ a, State.transact Config.params (.bufRead .rmem a) s =
      { s with replies := .real (Config.busReal s.draws) :: s.replies, draws := s.draws + 1 }) ∧
    (∀ a, State.transact Config.params (.bufRead .qmem a) s =
      { s with replies := .int (Config.busInt s.draws) :: s.replies, draws := s.draws + 1 }) ∧
    ∀ a, State.transact Config.params (.bufRead .bmem a) s =
      { s with replies := .byte (Config.busByte s.draws) :: s.replies, draws := s.draws + 1 }

/-- R138: the writes the block ignores, none of which sets a flag or raises a fault. -/
def Obligations.IgnoredWrites : Prop :=
  ∀ (s : State) (idx v : Word),
    (s.busy = true ∨ s.fault = true → State.transact Config.params (.csrWrite 2 v) s = s) ∧
    (s.busy = true → State.transact Config.params (.csrWrite idx v) s = s ∧
      (∀ x, State.transact Config.params (.bufWriteR idx x) s = s) ∧
      State.transact Config.params (.bufWriteQ idx v) s = s ∧
      ∀ x, State.transact Config.params (.bufWriteB idx x) s = s) ∧
    (idx = 1 ∨ idx = 3 ∨ idx = 6 ∨ idx = 7 ∨ 13 ≤ idx.toNat →
      State.transact Config.params (.csrWrite idx v) s = s) ∧
    (v.getLsbD 0 = false → State.transact Config.params (.csrWrite 0 v) s = s)

/-- R38, R43: a BufWrite of an idle block changes its one unit and nothing else, the next BufRead of that unit returns
it, and at or beyond the size of the space a BufWrite has no effect. A BufRead of an idle block returns the unit at its
address (of an unwritten one the free value of log entry 5), beyond the space the free value of log entry 6, and changes
nothing of the block. -/
def Obligations.BufferTransactions : Prop :=
  ∀ (s : State) (a : Word), s.busy = false →
    (∀ v : F64, let t := State.transact Config.params (.bufWriteR a v) s
      (a.toNat < Config.params.rwords →
        t = { s with rmem := t.rmem } ∧ Memory.read t.rmem a.toNat = some v ∧
        (∀ b, b ≠ a.toNat → Memory.read t.rmem b = Memory.read s.rmem b) ∧
        State.transact Config.params (.bufRead .rmem a) t = { t with replies := .real v :: s.replies }) ∧
      (Config.params.rwords ≤ a.toNat → t = s)) ∧
    (∀ v : Word, let t := State.transact Config.params (.bufWriteQ a v) s
      (a.toNat < Config.params.qwords →
        t = { s with qmem := t.qmem } ∧ Memory.read t.qmem a.toNat = some v ∧
        (∀ b, b ≠ a.toNat → Memory.read t.qmem b = Memory.read s.qmem b) ∧
        State.transact Config.params (.bufRead .qmem a) t = { t with replies := .int v :: s.replies }) ∧
      (Config.params.qwords ≤ a.toNat → t = s)) ∧
    (∀ v : Byte, let t := State.transact Config.params (.bufWriteB a v) s
      (a.toNat < Config.params.bbytes →
        t = { s with bmem := t.bmem } ∧ Memory.read t.bmem a.toNat = some v ∧
        (∀ b, b ≠ a.toNat → Memory.read t.bmem b = Memory.read s.bmem b) ∧
        State.transact Config.params (.bufRead .bmem a) t = { t with replies := .byte v :: s.replies }) ∧
      (Config.params.bbytes ≤ a.toNat → t = s)) ∧
    (a.toNat < Config.params.rwords → State.transact Config.params (.bufRead .rmem a) s =
      { s with replies := .real (s.readR a.toNat) :: s.replies }) ∧
    (Config.params.rwords ≤ a.toNat → State.transact Config.params (.bufRead .rmem a) s =
      { s with replies := .real (Config.busReal s.draws) :: s.replies, draws := s.draws + 1 }) ∧
    (a.toNat < Config.params.qwords → State.transact Config.params (.bufRead .qmem a) s =
      { s with replies := .int (s.readQ a.toNat) :: s.replies }) ∧
    (Config.params.qwords ≤ a.toNat → State.transact Config.params (.bufRead .qmem a) s =
      { s with replies := .int (Config.busInt s.draws) :: s.replies, draws := s.draws + 1 }) ∧
    (a.toNat < Config.params.bbytes → State.transact Config.params (.bufRead .bmem a) s =
      { s with replies := .byte (s.readB a.toNat) :: s.replies }) ∧
    (Config.params.bbytes ≤ a.toNat → State.transact Config.params (.bufRead .bmem a) s =
      { s with replies := .byte (Config.busByte s.draws) :: s.replies, draws := s.draws + 1 })

/-- R69, R70: the pseudo-instruction `OP src, dst, cnt` on an idle block without a fault: after its four writes and the
core's turn the machine is where `exec` takes the command with those operands. -/
def Obligations.ScriptRunsCommand : Prop :=
  ∀ (i : Instr) (src dst cnt : Word) (s : State) (rest : List Turn),
    (ScriptLine.op i src dst cnt : ScriptLine).wf → s.busy = false → s.fault = false →
    s.turns = scriptTurns (.op i src dst cnt) ++ rest →
    Host.Core.run core 5 s =
      exec i { s with
        src0 := src, dst0 := dst, cnt := cnt, cmd := encode i, busy := true, done := false, trunc := false,
        underrun := false, turns := .host (.csrRead Reg.status.index) :: rest }

/-! ### The thirteen commands: completion, result and frame -/

/-- R72: MSFWD. -/
def Obligations.MsfwdCompletes : Prop :=
  ∀ (s : State) (n m : Nat), ConfiguredAs s n m →
    Fits s.src0 s.cnt.toNat Config.params.rwords → Fits s.src1 s.cnt.toNat Config.params.rwords →
    Fits s.dst0 s.cnt.toNat Config.params.rwords → Fits s.dst1 s.cnt.toNat Config.params.rwords →
    Apart s.src0 s.cnt.toNat s.dst0 s.cnt.toNat → Apart s.src0 s.cnt.toNat s.dst1 s.cnt.toNat →
    Apart s.src1 s.cnt.toNat s.dst0 s.cnt.toNat → Apart s.src1 s.cnt.toNat s.dst1 s.cnt.toNat →
    Apart s.dst0 s.cnt.toNat s.dst1 s.cnt.toNat →
    ∃ t, exec .msfwd s = .next t ∧ Completed s t 0 ∧ FlagsKept s t ∧
      (∀ i < s.cnt.toNat,
        Memory.read t.rmem (s.dst0.toNat + i) =
          some (((s.readR (s.src0.toNat + i)).add (s.readR (s.src1.toNat + i))).divNat 2) ∧
        Memory.read t.rmem (s.dst1.toNat + i) =
          some (((s.readR (s.src0.toNat + i)).sub (s.readR (s.src1.toNat + i))).divNat 2)) ∧
      (∀ a, (a < s.dst0.toNat ∨ s.dst0.toNat + s.cnt.toNat ≤ a) →
        (a < s.dst1.toNat ∨ s.dst1.toNat + s.cnt.toNat ≤ a) → Memory.read t.rmem a = Memory.read s.rmem a) ∧
      SameMemory s.qmem t.qmem ∧ SameMemory s.bmem t.bmem

/-- R73: MSINV. -/
def Obligations.MsinvCompletes : Prop :=
  ∀ (s : State) (n m : Nat), ConfiguredAs s n m →
    Fits s.src0 s.cnt.toNat Config.params.rwords → Fits s.src1 s.cnt.toNat Config.params.rwords →
    Fits s.dst0 s.cnt.toNat Config.params.rwords → Fits s.dst1 s.cnt.toNat Config.params.rwords →
    Apart s.src0 s.cnt.toNat s.dst0 s.cnt.toNat → Apart s.src0 s.cnt.toNat s.dst1 s.cnt.toNat →
    Apart s.src1 s.cnt.toNat s.dst0 s.cnt.toNat → Apart s.src1 s.cnt.toNat s.dst1 s.cnt.toNat →
    Apart s.dst0 s.cnt.toNat s.dst1 s.cnt.toNat →
    ∃ t, exec .msinv s = .next t ∧ Completed s t 0 ∧ FlagsKept s t ∧
      (∀ i < s.cnt.toNat,
        Memory.read t.rmem (s.dst0.toNat + i) =
          some ((s.readR (s.src0.toNat + i)).add (s.readR (s.src1.toNat + i))) ∧
        Memory.read t.rmem (s.dst1.toNat + i) =
          some ((s.readR (s.src0.toNat + i)).sub (s.readR (s.src1.toNat + i)))) ∧
      (∀ a, (a < s.dst0.toNat ∨ s.dst0.toNat + s.cnt.toNat ≤ a) →
        (a < s.dst1.toNat ∨ s.dst1.toNat + s.cnt.toNat ≤ a) → Memory.read t.rmem a = Memory.read s.rmem a) ∧
      SameMemory s.qmem t.qmem ∧ SameMemory s.bmem t.bmem

/-- R74: PCMOUT; the value a read of QMEM gives is the clamped and rounded sample, within 16 bits. -/
def Obligations.PcmoutCompletes : Prop :=
  ∀ (s : State) (n m : Nat), ConfiguredAs s n m →
    Fits s.src0 s.cnt.toNat Config.params.rwords → Fits s.dst0 s.cnt.toNat Config.params.qwords →
    ∃ t, exec .pcmout s = .next t ∧ Completed s t 0 ∧ FlagsKept s t ∧
      (∀ i < s.cnt.toNat, ∃ w, Memory.read t.qmem (s.dst0.toNat + i) = some w ∧
        w.toInt = (s.readR (s.src0.toNat + i)).clamp16.rnd ∧ -32768 ≤ w.toInt ∧ w.toInt ≤ 32767) ∧
      SameOutside s.qmem t.qmem s.dst0 s.cnt.toNat ∧ SameMemory s.rmem t.rmem ∧ SameMemory s.bmem t.bmem

/-- R77: FRAME. -/
def Obligations.FrameCompletes : Prop :=
  ∀ (s : State) (n m : Nat), ConfiguredAs s n m →
    Fits s.src0 s.cnt.toNat Config.params.rwords →
    Fits s.dst0 ((s.cnt.toNat / n + 1) * (2 * n)) Config.params.rwords →
    Apart s.src0 s.cnt.toNat s.dst0 ((s.cnt.toNat / n + 1) * (2 * n)) →
    ∃ t, exec .frame s = .next t ∧ Completed s t (s.cnt.toNat / n + 1) ∧ FlagsKept s t ∧
      (∀ b < s.cnt.toNat / n + 1, ∀ j < 2 * n,
        Memory.read t.rmem (s.dst0.toNat + (b * (2 * n) + j)) =
          some (if n ≤ b * n + j ∧ b * n + j < n + s.cnt.toNat
            then s.readR (s.src0.toNat + (b * n + j - n)) else F64.zero)) ∧
      SameOutside s.rmem t.rmem s.dst0 ((s.cnt.toNat / n + 1) * (2 * n)) ∧
      SameMemory s.qmem t.qmem ∧ SameMemory s.bmem t.bmem

/-- R79, R80: WINA and WINS. -/
def Obligations.WindowsComplete : Prop :=
  ∀ (i : Instr) (s : State) (n m : Nat), i = .wina ∨ i = .wins → ConfiguredAs s n m →
    Fits s.src0 (s.cnt.toNat * (2 * n)) Config.params.rwords →
    Fits s.dst0 (s.cnt.toNat * (2 * n)) Config.params.rwords →
    Apart s.src0 (s.cnt.toNat * (2 * n)) s.dst0 (s.cnt.toNat * (2 * n)) →
    ∃ t, exec i s = .next t ∧ Completed s t 0 ∧ FlagsKept s t ∧
      (∀ b < s.cnt.toNat, ∀ j < 2 * n,
        Memory.read t.rmem (s.dst0.toNat + (b * (2 * n) + j)) =
          some ((s.readR (s.src0.toNat + (b * (2 * n) + j))).mul (win64 n j))) ∧
      SameOutside s.rmem t.rmem s.dst0 (s.cnt.toNat * (2 * n)) ∧
      SameMemory s.qmem t.qmem ∧ SameMemory s.bmem t.bmem

/-- R83: MDCT, the sum from +0 in ascending order, each product rounded once (R10 b). -/
def Obligations.MdctCompletes : Prop :=
  ∀ (s : State) (n m : Nat), ConfiguredAs s n m →
    Fits s.src0 (s.cnt.toNat * (2 * n)) Config.params.rwords →
    Fits s.dst0 (s.cnt.toNat * n) Config.params.rwords →
    Apart s.src0 (s.cnt.toNat * (2 * n)) s.dst0 (s.cnt.toNat * n) →
    ∃ t, exec .mdct s = .next t ∧ Completed s t 0 ∧ FlagsKept s t ∧
      (∀ b < s.cnt.toNat, ∀ k < n,
        Memory.read t.rmem (s.dst0.toNat + (b * n + k)) =
          some ((List.range (2 * n)).foldl
            (fun acc j => acc.add ((s.readR (s.src0.toNat + (b * (2 * n) + j))).mul (ker64 n j k))) F64.zero)) ∧
      SameOutside s.rmem t.rmem s.dst0 (s.cnt.toNat * n) ∧
      SameMemory s.qmem t.qmem ∧ SameMemory s.bmem t.bmem

/-- R84: IMDCT, the scale applied after the sum and the snap after the scale (R10 b, d). -/
def Obligations.ImdctCompletes : Prop :=
  ∀ (s : State) (n m : Nat), ConfiguredAs s n m →
    Fits s.src0 (s.cnt.toNat * n) Config.params.rwords →
    Fits s.dst0 (s.cnt.toNat * (2 * n)) Config.params.rwords →
    Apart s.src0 (s.cnt.toNat * n) s.dst0 (s.cnt.toNat * (2 * n)) →
    ∃ t, exec .imdct s = .next t ∧ Completed s t 0 ∧ FlagsKept s t ∧
      (∀ b < s.cnt.toNat, ∀ j < 2 * n,
        Memory.read t.rmem (s.dst0.toNat + (b * (2 * n) + j)) =
          some (((F64.ofInt 2).divNat n).mul ((List.range n).foldl
            (fun acc k => acc.add ((s.readR (s.src0.toNat + (b * n + k))).mul (ker64 n j k))) F64.zero)).snap) ∧
      SameOutside s.rmem t.rmem s.dst0 (s.cnt.toNat * (2 * n)) ∧
      SameMemory s.qmem t.qmem ∧ SameMemory s.bmem t.bmem

/-- R89: QUANT, where every rounded kept coefficient fits a signed 32-bit word. -/
def Obligations.QuantCompletes : Prop :=
  ∀ (s : State) (n m : Nat), ConfiguredAs s n m →
    Fits s.src0 (s.cnt.toNat * n) Config.params.rwords →
    Fits s.dst0 (s.cnt.toNat * (n - m)) Config.params.qwords →
    (∀ b < s.cnt.toNat, ∀ j < n - m, -2 ^ 31 ≤ (s.readR (s.src0.toNat + (b * n + j))).rnd ∧
      (s.readR (s.src0.toNat + (b * n + j))).rnd ≤ 2 ^ 31 - 1) →
    ∃ t, exec .quant s = .next t ∧ Completed s t 0 ∧ FlagsKept s t ∧
      (∀ b < s.cnt.toNat, ∀ j < n - m, ∃ w,
        Memory.read t.qmem (s.dst0.toNat + (b * (n - m) + j)) = some w ∧
        w.toInt = (s.readR (s.src0.toNat + (b * n + j))).rnd) ∧
      SameOutside s.qmem t.qmem s.dst0 (s.cnt.toNat * (n - m)) ∧
      SameMemory s.rmem t.rmem ∧ SameMemory s.bmem t.bmem

/-- R90: DEQUANT; every value written is the exact real number of the integer read. R90 says "exactly 0" at the dropped
places; that the zero there is +0 is the model's choice (log entry 12). -/
def Obligations.DequantCompletes : Prop :=
  ∀ (s : State) (n m : Nat), ConfiguredAs s n m →
    Fits s.src0 (s.cnt.toNat * (n - m)) Config.params.qwords →
    Fits s.dst0 (s.cnt.toNat * n) Config.params.rwords →
    ∃ t, exec .dequant s = .next t ∧ Completed s t 0 ∧ FlagsKept s t ∧
      (∀ b < s.cnt.toNat, ∀ j < n, ∃ x, Memory.read t.rmem (s.dst0.toNat + (b * n + j)) = some x ∧
        (j < n - m → x.toRat = (s.readQ (s.src0.toNat + (b * (n - m) + j))).toInt) ∧
        (n - m ≤ j → x = F64.zero)) ∧
      SameOutside s.rmem t.rmem s.dst0 (s.cnt.toNat * n) ∧
      SameMemory s.qmem t.qmem ∧ SameMemory s.bmem t.bmem

/-- R94: OLA; with CNT = 0 and CNT = 1 it writes nothing and RES is 0. -/
def Obligations.OlaCompletes : Prop :=
  ∀ (s : State) (n m : Nat), ConfiguredAs s n m →
    Fits s.src0 (s.cnt.toNat * (2 * n)) Config.params.rwords →
    Fits s.dst0 ((s.cnt.toNat - 1) * n) Config.params.rwords →
    Apart s.src0 (s.cnt.toNat * (2 * n)) s.dst0 ((s.cnt.toNat - 1) * n) →
    ∃ t, exec .ola s = .next t ∧ Completed s t ((s.cnt.toNat - 1) * n) ∧ FlagsKept s t ∧
      (∀ i, i + 1 < s.cnt.toNat → ∀ j < n,
        Memory.read t.rmem (s.dst0.toNat + (i * n + j)) =
          some ((s.readR (s.src0.toNat + (i * (2 * n) + n + j))).add
            (s.readR (s.src0.toNat + ((i + 1) * (2 * n) + j))))) ∧
      SameOutside s.rmem t.rmem s.dst0 ((s.cnt.toNat - 1) * n) ∧
      SameMemory s.qmem t.qmem ∧ SameMemory s.bmem t.bmem

/-- R97, R99: PACK; every stream bit and every padding bit at its place in BMEM. -/
def Obligations.PackCompletes : Prop :=
  ∀ (s : State) (n m : Nat), ConfiguredAs s n m →
    Fits s.src0 s.cnt.toNat Config.params.qwords →
    let vs := tabulate s.cnt.toNat (fun e => (s.readQ (s.src0.toNat + e)).toInt)
    let bits := vs.flatMap (fun v => (encodeElement v).bits)
    let l := (bits.length + 7) / 8
    Fits s.dst0 l Config.params.bbytes →
    ∃ t, exec .pack s = .next t ∧ Completed s t l ∧ t.underrun = s.underrun ∧
      (t.trunc = true ↔ s.trunc = true ∨ ∃ v ∈ vs, 65536 ≤ |v|) ∧
      (∀ u < 8 * l, ∃ byte, Memory.read t.bmem (s.dst0.toNat + u / 8) = some byte ∧
        byte.getLsbD (7 - u % 8) = bits.getD u false) ∧
      SameOutside s.bmem t.bmem s.dst0 l ∧ SameMemory s.rmem t.rmem ∧ SameMemory s.qmem t.qmem

/-- R100 to R102: UNPACK; `pos e` is the stream position of element `e`. -/
def Obligations.UnpackCompletes : Prop :=
  ∀ (s : State) (n m : Nat), ConfiguredAs s n m →
    Fits s.src0 s.src1.toNat Config.params.bbytes → Fits s.dst0 s.cnt.toNat Config.params.qwords →
    ∃ t, exec .unpack s = .next t ∧ Completed s t 0 ∧ t.trunc = s.trunc ∧
      (∃ pos : Nat → Nat, pos 0 = 0 ∧
        (∀ e < s.cnt.toNat,
          let src := fun i => s.readB (s.src0.toNat + i)
          let nb := readBits src s.src1.toNat (pos e) 5
          let sg := readBits src s.src1.toNat (pos e + 5) 1
          let mag := readBits src s.src1.toNat (pos e + 6) nb
          pos (e + 1) = pos e + 6 + nb ∧
          ∃ w, Memory.read t.qmem (s.dst0.toNat + e) = some w ∧
            w.toInt = if sg = 1 then -(mag : Int) else mag) ∧
        (t.underrun = true ↔ s.underrun = true ∨ 8 * s.src1.toNat < pos s.cnt.toNat)) ∧
      SameOutside s.qmem t.qmem s.dst0 s.cnt.toNat ∧ SameMemory s.rmem t.rmem ∧ SameMemory s.bmem t.bmem

/-! ### Primitives and numerics -/

/-- R10 (e), R11, R12: rounding and clamping of a binary64 value are those of the real number it is. -/
def Obligations.RoundingIsExact : Prop :=
  ∀ x : F64, F64.rnd x = reference.rnd (x.toRat : ℝ) ∧
    ((F64.clamp16 x).toRat : ℝ) = reference.clamp16 (x.toRat : ℝ)

/-- R12: the clamp, and that the order of clamp and round cannot be observed. -/
def Obligations.ClampRoundCommute : Prop :=
  ∀ v : ℝ, (v < -32768 → reference.clamp16 v = -32768) ∧ (32767 < v → reference.clamp16 v = 32767) ∧
    (-32768 ≤ v → v ≤ 32767 → reference.clamp16 v = v) ∧
    (reference.rnd (reference.clamp16 v) : ℝ) = reference.clamp16 (reference.rnd v : ℝ)

/-- R13: the snap in both instances; the binary64 limit is the value nearest to 10^-10. -/
def Obligations.SnapRule : Prop :=
  (∀ v : ℝ, (|v| < 1 / 10 ^ 10 → reference.snap v = 0) ∧ (1 / 10 ^ 10 ≤ |v| → reference.snap v = v)) ∧
  (∀ x : F64, (|x.toRat| < F64.snapLimit.toRat → F64.snap x = F64.zero) ∧
    (F64.snapLimit.toRat ≤ |x.toRat| → F64.snap x = x)) ∧
  ∀ y : F64, |F64.snapLimit.toRat - 1 / 10 ^ 10| ≤ |y.toRat - 1 / 10 ^ 10|

/-- R16: `bitlen`, and D0's width formula. -/
def Obligations.BitLengthRule : Prop :=
  bitlen 0 = 0 ∧ (∀ a, 0 < a → bitlen a = Nat.log 2 a + 1 ∧ 2 ^ (bitlen a - 1) ≤ a ∧ a < 2 ^ bitlen a) ∧
  ∀ a, (if a = 0 then 1 else Nat.log 2 a + 2) = bitlen a + 1

/-- R10 (a): addition, subtraction, multiplication and division by a positive integer are the exact results rounded to
nearest, ties to even, wherever the exact result is within the finite format. -/
def Obligations.RoundsToNearestEven : Prop :=
  (∀ a b : F64, |a.toRat + b.toRat| ≤ largestF64.toRat → NearestEven (a.add b) (a.toRat + b.toRat)) ∧
  (∀ a b : F64, |a.toRat - b.toRat| ≤ largestF64.toRat → NearestEven (a.sub b) (a.toRat - b.toRat)) ∧
  (∀ a b : F64, |a.toRat * b.toRat| ≤ largestF64.toRat → NearestEven (a.mul b) (a.toRat * b.toRat)) ∧
  ∀ (a : F64) (d : Nat), 0 < d → NearestEven (a.divNat d) (a.toRat / d)

/-- R81, and R14's range: the window law of the reference instance. -/
def Obligations.WindowLaw : Prop :=
  ∀ n j : Nat, 1 ≤ n →
    (j < n → reference.win n j ^ 2 + reference.win n (n + j) ^ 2 = 1) ∧
    (j < 2 * n → reference.win n (2 * n - 1 - j) = reference.win n j ∧ 0 < reference.win n j ∧
      reference.win n j ≤ 1)

/-! ### Laws of the stages -/

/-- R78: the block count, D0's formula, and that a completed FRAME reports it whatever M and the data are. -/
def Obligations.BlockCountLaw : Prop :=
  (∀ n samples : Nat, 1 ≤ n → samples / n + 1 = (samples + 2 * n) / n - 1) ∧
  ∀ (s t : State) (n m : Nat), ConfiguredAs s n m → exec .frame s = .next t → t.fault = false →
    t.res.toNat = (s.cnt.toNat + 2 * n) / n - 1

/-- R82: where each sample stands in the blocks FRAME makes, and the halves that are padding. -/
def Obligations.FrameCoverage : Prop :=
  ∀ (α : Type) (nm : Numerics α) (n samples : Nat) (x : Nat → α), 1 ≤ n →
    (∀ q < samples,
      q / n < blockCount n samples ∧ frameOf nm n samples x (q / n * (2 * n) + (n + q % n)) = x q ∧
      (q < samples / n * n →
        q / n + 1 < blockCount n samples ∧ frameOf nm n samples x ((q / n + 1) * (2 * n) + q % n) = x q)) ∧
    (∀ j < n, frameOf nm n samples x j = nm.zero) ∧
    (samples % n = 0 → ∀ j < n, frameOf nm n samples x (samples / n * (2 * n) + (n + j)) = nm.zero)

/-- R96: the two entries OLA adds for position `p` are the two places where FRAME put sample `p`. -/
def Obligations.OverlapAddAlignment : Prop :=
  ∀ (α : Type) (nm : Numerics α) (n samples : Nat) (x : Nat → α), 1 ≤ n →
    olaLength n (blockCount n samples) = samples / n * n ∧
    ∀ p < samples / n * n, olaOf nm n (frameOf nm n samples x) p = nm.add (x p) (x p)

/-- R85: the aliasing identity of the reference instance, without the snap, and `MDCT(IMDCT(X)) = 2·X`. -/
def Obligations.TransformAliasing : Prop :=
  ∀ (n : Nat) (x : Nat → ℝ), 1 ≤ n →
    (∀ i < n, imdctRawOf reference n (mdctOf reference n x) i = x i - x (n - 1 - i)) ∧
    (∀ i, n ≤ i → i < 2 * n → imdctRawOf reference n (mdctOf reference n x) i = x i + x (3 * n - 1 - i)) ∧
    ∀ k < n, mdctOf reference n (imdctRawOf reference n x) k = 2 * x k

/-- R88: magnitude bounds of the transforms in the reference instance. -/
def Obligations.TransformMagnitude : Prop :=
  ∀ (n : Nat) (x : Nat → ℝ) (a : ℝ), 1 ≤ n →
    (∀ k < n, |mdctOf reference n x k| ≤ ∑ i ∈ Finset.range (2 * n), |x i|) ∧
    ((∀ i < 2 * n, |x i| ≤ a) → ∀ k < n, |mdctOf reference n x k| ≤ 2 * n * a) ∧
    (∀ i < 2 * n, |imdctRawOf reference n x i| ≤ 2 / n * ∑ k ∈ Finset.range n, |x k|) ∧
    ((∀ k < n, |x k| ≤ a) → ∀ i < 2 * n, |imdctRawOf reference n x i| ≤ 2 * a) ∧
    ((∀ i < 2 * n, |x i| ≤ 32768) → ∀ k < n,
      |mdctOf reference n (windowOf reference n x) k| ≤ 65536 * n ∧
      (n ≤ 32767 → (65536 * n : ℝ) < 2 ^ 31))

/-- R87, R75: both transforms of the reference instance are linear in their source, before the snap, and MSFWD is linear
in its two sources. -/
def Obligations.TransformLinearity : Prop :=
  (∀ (n i : Nat) (a b : ℝ) (x y : Nat → ℝ),
    mdctOf reference n (fun j => a * x j + b * y j) i = a * mdctOf reference n x i + b * mdctOf reference n y i ∧
    imdctRawOf reference n (fun j => a * x j + b * y j) i =
      a * imdctRawOf reference n x i + b * imdctRawOf reference n y i) ∧
  ∀ (i : Nat) (a b : ℝ) (l r l' r' : Nat → ℝ),
    let left := fun j => a * l j + b * l' j
    let right := fun j => a * r j + b * r' j
    midOf reference left right i = a * midOf reference l r i + b * midOf reference l' r' i ∧
    sideOf reference left right i = a * sideOf reference l r i + b * sideOf reference l' r' i

/-- R91: DEQUANT after QUANT and QUANT after DEQUANT, on one block of the reference instance. -/
def Obligations.QuantizerLaw : Prop :=
  ∀ (n m : Nat) (c : Nat → ℝ) (q : Nat → Int), m < n → (∀ j < n, |reference.rnd (c j)| < 2 ^ 31) →
    (∀ j < n - m,
      dequantOf reference n (n - m) (quantOf reference n (n - m) c) j = reference.rnd (c j) ∧
      |dequantOf reference n (n - m) (quantOf reference n (n - m) c) j - c j| ≤ 1 / 2) ∧
    (∀ j, n - m ≤ j → j < n → dequantOf reference n (n - m) (quantOf reference n (n - m) c) j = 0) ∧
    ∀ j < n - m, quantOf reference n (n - m) (dequantOf reference n (n - m) q) j = q j

/-- R115: on one block a larger M zeroes a superset of the coefficients, so the sum of squares does not increase. -/
def Obligations.TruncationEnergy : Prop :=
  ∀ (n m m' : Nat) (c : Nat → ℝ), m ≤ m' → m' < n →
    let kept := dequantOf reference n (n - m) (quantOf reference n (n - m) c)
    let fewer := dequantOf reference n (n - m') (quantOf reference n (n - m') c)
    (∀ j < n, kept j = 0 → fewer j = 0) ∧
    ∑ j ∈ Finset.range n, fewer j ^ 2 ≤ ∑ j ∈ Finset.range n, kept j ^ 2

/-- R75: MSINV after MSFWD returns the channels. Exactly in the reference instance. In binary64: to the bit for integers
of magnitude below 2^52 (that a sample 0 comes back as +0 is the model's choice, log entry 12); exactly in value wherever
l + r and l - r are representable and so are their halves (which can fail only for subnormal halves, log entry 22); and
otherwise within one rounding each of l + r, of l - r and of the last operation, written as a bound that covers them. -/
def Obligations.MidSideInverse : Prop :=
  (∀ (l r : Nat → ℝ) (i : Nat),
    leftOf reference (midOf reference l r) (sideOf reference l r) i = l i ∧
    rightOf reference (midOf reference l r) (sideOf reference l r) i = r i) ∧
  (∀ (l r : Nat → Int) (i : Nat), |l i| < 2 ^ 52 → |r i| < 2 ^ 52 →
    let left := fun j => F64.ofInt (l j)
    let right := fun j => F64.ofInt (r j)
    leftOf binary64 (midOf binary64 left right) (sideOf binary64 left right) i = left i ∧
    rightOf binary64 (midOf binary64 left right) (sideOf binary64 left right) i = right i) ∧
  (∀ (l r : Nat → F64) (i : Nat),
    (∃ y : F64, y.toRat = (l i).toRat + (r i).toRat) → (∃ y : F64, y.toRat = (l i).toRat - (r i).toRat) →
    (∃ y : F64, y.toRat = ((l i).toRat + (r i).toRat) / 2) → (∃ y : F64, y.toRat = ((l i).toRat - (r i).toRat) / 2) →
    (leftOf binary64 (midOf binary64 l r) (sideOf binary64 l r) i).toRat = (l i).toRat ∧
    (rightOf binary64 (midOf binary64 l r) (sideOf binary64 l r) i).toRat = (r i).toRat) ∧
  ∀ (l r : Nat → F64) (i : Nat),
    |(l i).toRat + (r i).toRat| ≤ largestF64.toRat → |(l i).toRat - (r i).toRat| ≤ largestF64.toRat →
    let bound : ℚ := max |(l i).toRat| |(r i).toRat| * (1 + 1 / 2 ^ 53) / 2 ^ 52 + 1 / 2 ^ 1073
    |(leftOf binary64 (midOf binary64 l r) (sideOf binary64 l r) i).toRat - (l i).toRat| ≤ bound ∧
    |(rightOf binary64 (midOf binary64 l r) (sideOf binary64 l r) i).toRat - (r i).toRat| ≤ bound

/-- R117: block `b` of a block-wise command depends on block `b` of its source and on nothing else, and on the number `b`
not at all: whatever two sources hold elsewhere, where block `b` of the one is block `c` of the other, so are the blocks
the command makes of them. -/
def Obligations.BlocksAreIndependent : Prop :=
  ∀ (α : Type) (nm : Numerics α) (n k b c : Nat), 1 ≤ n → 1 ≤ k → k ≤ n →
    (∀ x y : Nat → α, (∀ j < 2 * n, x (b * (2 * n) + j) = y (c * (2 * n) + j)) →
      (∀ j < 2 * n, windowOf nm n x (b * (2 * n) + j) = windowOf nm n y (c * (2 * n) + j)) ∧
      ∀ j < n, mdctOf nm n x (b * n + j) = mdctOf nm n y (c * n + j)) ∧
    (∀ x y : Nat → α, (∀ j < n, x (b * n + j) = y (c * n + j)) →
      (∀ j < 2 * n, imdctOf nm n x (b * (2 * n) + j) = imdctOf nm n y (c * (2 * n) + j)) ∧
      ∀ j < k, quantOf nm n k x (b * k + j) = quantOf nm n k y (c * k + j)) ∧
    ∀ q q' : Nat → Int, (∀ j < k, q (b * k + j) = q' (c * k + j)) →
      ∀ j < n, dequantOf nm n k q (b * n + j) = dequantOf nm n k q' (c * n + j)

/-- R112: the reconstruction law of the reference instance, for every N, S and channel. -/
def Obligations.Reconstruction : Prop :=
  ∀ (n samples : Nat) (x : Nat → ℝ), 1 ≤ n →
    let coefficients := mdctOf reference n (windowOf reference n (frameOf reference n samples x))
    let out := olaOf reference n (windowOf reference n (imdctOf reference n coefficients))
    (∀ p < samples / n * n, |out p - x p| < 15 / 10 ^ 11) ∧
    ((∀ i < blockCount n samples * (2 * n),
        |imdctRawOf reference n coefficients i| < 1 / 10 ^ 10 → imdctRawOf reference n coefficients i = 0) →
      ∀ p < samples / n * n, out p = x p)

/-- R113: the reconstruction bound with QUANT and DEQUANT in the chain and M = 0. -/
def Obligations.QuantizedReconstruction : Prop :=
  ∀ (n samples : Nat) (x : Nat → ℝ), 1 ≤ n →
    let coefficients := mdctOf reference n (windowOf reference n (frameOf reference n samples x))
    let decoded := dequantOf reference n n (quantOf reference n n coefficients)
    let out := olaOf reference n (windowOf reference n (imdctOf reference n decoded))
    ∀ p < samples / n * n, |out p - x p| ≤ Real.sqrt 2 * (1 + 1 / 10 ^ 10)

/-- R114: the silence law, in both numerics instances, for every command; the zeros are exact. That the zeros MDCT and
DEQUANT write are +0 is the model's choice (log entry 12); that IMDCT's are is R13. -/
def Obligations.SilenceLaw : Prop :=
  (∀ (n k samples : Nat) (x y : Nat → F64) (i : Nat), 1 ≤ n → (∀ j, (x j).magBits = 0) → (∀ j, (y j).magBits = 0) →
    (midOf binary64 x y i).magBits = 0 ∧ (sideOf binary64 x y i).magBits = 0 ∧
    (leftOf binary64 x y i).magBits = 0 ∧ (rightOf binary64 x y i).magBits = 0 ∧
    (frameOf binary64 n samples x i).magBits = 0 ∧ (windowOf binary64 n x i).magBits = 0 ∧
    mdctOf binary64 n x i = F64.zero ∧ quantOf binary64 n k x i = 0 ∧
    dequantOf binary64 n k (fun _ => 0) i = F64.zero ∧ imdctOf binary64 n x i = F64.zero ∧
    (olaOf binary64 n x i).magBits = 0 ∧ pcmOf binary64 x i = 0) ∧
  (∀ (n k samples i : Nat), 1 ≤ n → let x : Nat → ℝ := fun _ => 0
    midOf reference x x i = 0 ∧ sideOf reference x x i = 0 ∧ leftOf reference x x i = 0 ∧
    rightOf reference x x i = 0 ∧ frameOf reference n samples x i = 0 ∧ windowOf reference n x i = 0 ∧
    mdctOf reference n x i = 0 ∧ quantOf reference n k x i = 0 ∧ dequantOf reference n k (fun _ => 0) i = 0 ∧
    imdctOf reference n x i = 0 ∧ olaOf reference n x i = 0 ∧ pcmOf reference x i = 0) ∧
  ∀ k : Nat, let bytes := packBytes (List.replicate k 0)
    streamBits (List.replicate k 0) = (List.replicate k [false, false, false, false, true, false, false]).flatten ∧
    unpackInts (fun i => bytes.getD i 0) bytes.length k = List.replicate k 0 ∧
    underruns bytes.length (unpackEnd (fun i => bytes.getD i 0) bytes.length k) = false

/-! ### The entropy code -/

/-- R64, R65: format E: wherever the bits of a well-formed element stand in a stream, the decoder reads that element,
for every width and every magnitude the format admits. -/
def Obligations.ElementRoundTrip : Prop :=
  ∀ (e : Element) (src : Nat → Byte) (slen t : Nat), e.wf →
    (∀ i < e.bits.length, streamBit src slen (t + i) = e.bits.getD i false) →
    e.bits.length = 6 + e.nb ∧ readElement src slen t = e

/-- R98, R102, R104: what one integer comes back as, and the width the encoder gives it. -/
def Obligations.TruncationLaw : Prop :=
  ∀ v : Int,
    (encodeElement v).wf ∧ 1 ≤ (encodeElement v).nb ∧ (encodeElement v).nb ≤ 16 ∧
    (|v| ≤ 65535 → decodeElement (encodeElement v) = v) ∧
    (65536 ≤ |v| → (encodeElement v).nb = 16 ∧ (encodeElement v).mag = v.natAbs % 65536 ∧
      decodeElement (encodeElement v) = v.sign * (|v| % 65536))

/-- R106: the length of an element and of a block. -/
def Obligations.ElementSizes : Prop :=
  (∀ v : Int,
    (v = 0 → (encodeElement v).bits.length = 7) ∧
    (1 ≤ |v| → |v| ≤ 32767 → (encodeElement v).bits.length = 7 + bitlen v.natAbs) ∧
    (32768 ≤ |v| → (encodeElement v).bits.length = 22)) ∧
  ∀ vs : List Int, (7 * vs.length + 7) / 8 ≤ (packBytes vs).length ∧
    (packBytes vs).length ≤ (22 * vs.length + 7) / 8

/-- R105: past the end every element is a 6-bit zero, and a field that straddles the end is its real bits followed by
zeros; so 5 and -5, cut after one byte, come back as the smaller 4 and the larger -4. -/
def Obligations.UnderrunLaw : Prop :=
  ∀ (src : Nat → Byte) (slen t : Nat),
    (8 * slen ≤ t → readElement src slen t = ⟨0, false, 0⟩ ∧ decodeElement (readElement src slen t) = 0 ∧
      ∀ count, readElements src slen (count + 1) t =
        (⟨0, false, 0⟩ :: (readElements src slen count (t + 6)).1, (readElements src slen count (t + 6)).2)) ∧
    (∀ w, t ≤ 8 * slen → 8 * slen ≤ t + w →
      readBits src slen t w = readBits src slen t (8 * slen - t) * 2 ^ (w - (8 * slen - t))) ∧
    decodeElement (readElement (fun i => (packBytes [5]).getD i 0) 1 0) = 4 ∧
    decodeElement (readElement (fun i => (packBytes [-5]).getD i 0) 1 0) = -4

/-- R107: a smaller count gives a prefix, a larger one goes on from where the smaller ended. -/
def Obligations.CountDiscipline : Prop :=
  ∀ (src : Nat → Byte) (slen k j : Nat),
    unpackInts src slen k = (unpackInts src slen (k + j)).take k ∧
    unpackInts src slen (k + j) =
      unpackInts src slen k ++ (readElements src slen j (unpackEnd src slen k)).1.map decodeElement

/-- R103: PACK and then UNPACK of what it wrote gives the vector back, for every vector of magnitudes up to 65535, and
neither flag is set. -/
def Obligations.PackUnpackRoundTrip : Prop :=
  ∀ (s : State) (n m : Nat), ConfiguredAs s n m → s.trunc = false → s.underrun = false →
    Fits s.src0 s.cnt.toNat Config.params.qwords →
    Fits s.dst0 (packBytes (tabulate s.cnt.toNat (fun e => (s.readQ (s.src0.toNat + e)).toInt))).length
      Config.params.bbytes →
    (∀ e < s.cnt.toNat, |(s.readQ (s.src0.toNat + e)).toInt| ≤ 65535) →
    ∃ t, exec .pack s = .next t ∧ t.done = true ∧ t.trunc = false ∧
      ∀ slen dst : Word, t.res.toNat ≤ slen.toNat → Fits s.dst0 slen.toNat Config.params.bbytes →
        Fits dst s.cnt.toNat Config.params.qwords →
        ∃ u, exec .unpack { t with
            src0 := s.dst0, src1 := slen, dst0 := dst, cmd := encode .unpack, busy := true, done := false } = .next u ∧
          u.done = true ∧ u.trunc = false ∧ u.underrun = false ∧
          ∀ e < s.cnt.toNat, Memory.read u.qmem (dst.toNat + e) = some (s.readQ (s.src0.toNat + e))
end

