-- ==== Sys2Proof/Laws/Memory.lean ====
section
/-!
SUPPORT. The laws of the memories: what a read gives after a write of a region, and that every memory operation keeps the
canonical form and the space.
-/

namespace Sys2Proof.Machine

variable {α : Type}

/-! ### `tabulate` -/

@[simp] theorem length_tabulate (n : Nat) (f : Nat → α) : (tabulate n f).length = n := by simp [tabulate]

@[simp] theorem getElem?_tabulate (n : Nat) (f : Nat → α) (i : Nat) :
    (tabulate n f)[i]? = if i < n then some (f i) else none := by
  by_cases h : i < n <;> simp [tabulate, h]

@[simp] theorem getElem_tabulate (n : Nat) (f : Nat → α) (i : Nat) (h : i < (tabulate n f).length) :
    (tabulate n f)[i] = f i := by simp [tabulate]

@[simp] theorem mem_tabulate (n : Nat) (f : Nat → α) (v : α) : v ∈ tabulate n f ↔ ∃ i, i < n ∧ f i = v := by
  simp [tabulate]

/-! ### Reading -/

@[simp] theorem Memory.read_nil (a : Nat) : Memory.read ([] : List (Nat × α)) a = none := rfl

theorem Memory.read_append (m₁ m₂ : List (Nat × α)) (a : Nat) :
    Memory.read (m₁ ++ m₂) a = (Memory.read m₁ a).or (Memory.read m₂ a) := by
  induction m₁ with
  | nil => simp
  | cons c m ih =>
    obtain ⟨k, v⟩ := c
    by_cases h : k = a <;> simp [Memory.read, h, ih]

/-- Keeping the units whose address meets a condition keeps the reads of those addresses and loses the others. -/
theorem Memory.read_filter (p : Nat → Bool) (m : List (Nat × α)) (a : Nat) :
    Memory.read (m.filter (fun c => p c.1)) a = if p a then Memory.read m a else none := by
  induction m with
  | nil => simp
  | cons c m ih =>
    obtain ⟨k, v⟩ := c
    by_cases hk : k = a
    · subst hk
      by_cases hp : p k <;> simp_all [Memory.read]
    · by_cases hp : p k <;> simp_all [Memory.read]

theorem Memory.read_cells (vs : List α) (base a : Nat) :
    Memory.read (Memory.cells base vs) a = if base ≤ a then vs[a - base]? else none := by
  induction vs generalizing base with
  | nil => simp [Memory.cells]
  | cons v vs ih =>
    rw [Memory.cells, Memory.read, ih]
    by_cases h : base = a
    · simp [h]
    · by_cases h' : base ≤ a
      · have : a - base = a - (base + 1) + 1 := by omega
        simp [h, h', this, show base + 1 ≤ a by omega]
      · simp [h, h', show ¬ base + 1 ≤ a by omega]

/-- A read after the write of a region: inside it the value written, outside it what was there. -/
theorem Memory.read_writeRegion (base : Nat) (vs : List α) (m : List (Nat × α)) (a : Nat) :
    Memory.read (Memory.writeRegion base vs m) a =
      if base ≤ a ∧ a < base + vs.length then vs[a - base]? else Memory.read m a := by
  rw [Memory.writeRegion, Memory.read_append, Memory.read_append,
    Memory.read_filter (fun k => decide (k < base)), Memory.read_cells,
    Memory.read_filter (fun k => decide (base + vs.length ≤ k))]
  rcases lt_or_ge a base with h | h
  · simp [h, show ¬ base ≤ a by omega, show ¬ base + vs.length ≤ a by omega]
  · rcases lt_or_ge a (base + vs.length) with h' | h'
    · simp [h, h', show ¬ a < base by omega, show ¬ base + vs.length ≤ a by omega]
    · have : vs[a - base]? = none := by rw [List.getElem?_eq_none_iff]; omega
      simp [h, h', show ¬ a < base by omega, this]

/-- The unit at offset `i` of a written region of tabulated values. -/
theorem Memory.read_writeRegion_tabulate (base n : Nat) (f : Nat → α) (m : List (Nat × α)) (i : Nat) (h : i < n) :
    Memory.read (Memory.writeRegion base (tabulate n f) m) (base + i) = some (f i) := by
  rw [Memory.read_writeRegion, if_pos (by simp [h]), Nat.add_sub_cancel_left, getElem?_tabulate, if_pos h]

/-- A read outside a written region gives what was there. -/
theorem Memory.read_writeRegion_of_outside (base : Nat) (vs : List α) (m : List (Nat × α)) (a : Nat)
    (h : a < base ∨ base + vs.length ≤ a) :
    Memory.read (Memory.writeRegion base vs m) a = Memory.read m a := by
  rw [Memory.read_writeRegion, if_neg (by omega)]

/-- Two writes to regions without a common unit: the first one's unit reads as it was written. -/
theorem Memory.read_writeRegion_writeRegion (base₁ base₂ : Nat) (vs₁ vs₂ : List α) (m : List (Nat × α)) (a : Nat)
    (h : a < base₂ ∨ base₂ + vs₂.length ≤ a) :
    Memory.read (Memory.writeRegion base₂ vs₂ (Memory.writeRegion base₁ vs₁ m)) a =
      Memory.read (Memory.writeRegion base₁ vs₁ m) a :=
  Memory.read_writeRegion_of_outside _ _ _ _ h

/-! ### The canonical form and the space -/

theorem Memory.map_fst_cells (vs : List α) (base : Nat) :
    (Memory.cells base vs).map Prod.fst = List.range' base vs.length := by
  induction vs generalizing base with
  | nil => rfl
  | cons v vs ih => simp [Memory.cells, ih, List.range'_succ]

theorem Memory.wf_nil : Memory.wf ([] : List (Nat × α)) := List.Pairwise.nil

theorem Memory.within_nil (size : Nat) : Memory.within size ([] : List (Nat × α)) := by simp

/-- Every write keeps the canonical form. -/
theorem Memory.wf_writeRegion (base : Nat) (vs : List α) (m : List (Nat × α)) (h : Memory.wf m) :
    Memory.wf (Memory.writeRegion base vs m) := by
  have sub : ∀ p : Nat × α → Bool, ((m.filter p).map Prod.fst).Pairwise (· < ·) := fun p =>
    List.Pairwise.sublist (List.Sublist.map _ List.filter_sublist) h
  rw [Memory.wf, Memory.writeRegion, List.map_append, List.map_append, List.pairwise_append,
    List.pairwise_append, Memory.map_fst_cells]
  refine ⟨⟨sub _, List.pairwise_lt_range', ?_⟩, sub _, ?_⟩
  · intro a ha b hb
    simp only [List.mem_map, List.mem_filter, decide_eq_true_eq] at ha
    obtain ⟨c, ⟨-, hc⟩, rfl⟩ := ha
    simp only [List.mem_range'_1] at hb
    omega
  · intro a ha b hb
    simp only [List.mem_map, List.mem_filter, decide_eq_true_eq] at hb
    obtain ⟨c, ⟨-, hc⟩, rfl⟩ := hb
    simp only [List.mem_append, List.mem_map, List.mem_filter, decide_eq_true_eq, List.mem_range'_1] at ha
    rcases ha with ⟨d, ⟨-, hd⟩, rfl⟩ | ha <;> omega

/-- A write of a region in bounds keeps every listed address in the space. -/
theorem Memory.within_writeRegion (size base : Nat) (vs : List α) (m : List (Nat × α))
    (h : Memory.within size m) (hb : vs.length = 0 ∨ base + vs.length ≤ size) :
    Memory.within size (Memory.writeRegion base vs m) := by
  intro c hc
  simp only [Memory.writeRegion, List.mem_append, List.mem_filter] at hc
  rcases hc with (⟨hc, -⟩ | hc) | ⟨hc, -⟩
  · exact h c hc
  · have : c.1 ∈ (Memory.cells base vs).map Prod.fst := List.mem_map_of_mem hc
    rw [Memory.map_fst_cells, List.mem_range'_1] at this
    omega
  · exact h c hc

/-- Every memory operation of the machine is a write of a region, which keeps both. -/
theorem State.wf_writeR (s : State α) (a : Word) (vs : List α) (h : Memory.wf s.rmem) :
    Memory.wf (s.writeR a vs).rmem := Memory.wf_writeRegion _ _ _ h

theorem State.wf_writeQ (s : State α) (a : Word) (zs : List Int) (h : Memory.wf s.qmem) :
    Memory.wf (s.writeQ a zs).qmem := Memory.wf_writeRegion _ _ _ h

theorem State.wf_writeB (s : State α) (a : Word) (bs : List Byte) (h : Memory.wf s.bmem) :
    Memory.wf (s.writeB a bs).bmem := Memory.wf_writeRegion _ _ _ h

theorem State.reset_memories_wf :
    Memory.wf State.reset.rmem ∧ Memory.wf State.reset.qmem ∧ Memory.wf State.reset.bmem :=
  ⟨Memory.wf_nil, Memory.wf_nil, Memory.wf_nil⟩

end Sys2Proof.Machine
end

