-- ==== Sys2Proof/Laws/State.lean ====
section
/-!
SUPPORT. One lemma per field per update of the state, each true by unfolding, so that no proof unfolds a record update.
-/

namespace Sys2Proof.Machine

variable {α : Type} (s : State α)

/-! ### raise -/

@[simp] theorem State.raise_busy (e : ErrCode) : (s.raise e).busy = false := rfl
@[simp] theorem State.raise_done (e : ErrCode) : (s.raise e).done = s.done := rfl
@[simp] theorem State.raise_fault (e : ErrCode) : (s.raise e).fault = true := rfl
@[simp] theorem State.raise_trunc (e : ErrCode) : (s.raise e).trunc = s.trunc := rfl
@[simp] theorem State.raise_underrun (e : ErrCode) : (s.raise e).underrun = s.underrun := rfl
@[simp] theorem State.raise_errcode (e : ErrCode) : (s.raise e).errcode = e.bits := rfl
@[simp] theorem State.raise_cmd (e : ErrCode) : (s.raise e).cmd = s.cmd := rfl
@[simp] theorem State.raise_res (e : ErrCode) : (s.raise e).res = s.res := rfl
@[simp] theorem State.raise_cfgN (e : ErrCode) : (s.raise e).cfgN = s.cfgN := rfl
@[simp] theorem State.raise_cfgM (e : ErrCode) : (s.raise e).cfgM = s.cfgM := rfl
@[simp] theorem State.raise_src0 (e : ErrCode) : (s.raise e).src0 = s.src0 := rfl
@[simp] theorem State.raise_src1 (e : ErrCode) : (s.raise e).src1 = s.src1 := rfl
@[simp] theorem State.raise_dst0 (e : ErrCode) : (s.raise e).dst0 = s.dst0 := rfl
@[simp] theorem State.raise_dst1 (e : ErrCode) : (s.raise e).dst1 = s.dst1 := rfl
@[simp] theorem State.raise_cnt (e : ErrCode) : (s.raise e).cnt = s.cnt := rfl
@[simp] theorem State.raise_rmem (e : ErrCode) : (s.raise e).rmem = s.rmem := rfl
@[simp] theorem State.raise_qmem (e : ErrCode) : (s.raise e).qmem = s.qmem := rfl
@[simp] theorem State.raise_bmem (e : ErrCode) : (s.raise e).bmem = s.bmem := rfl
@[simp] theorem State.raise_resets (e : ErrCode) : (s.raise e).resets = s.resets := rfl
@[simp] theorem State.raise_draws (e : ErrCode) : (s.raise e).draws = s.draws := rfl
@[simp] theorem State.raise_turns (e : ErrCode) : (s.raise e).turns = s.turns := rfl
@[simp] theorem State.raise_replies (e : ErrCode) : (s.raise e).replies = s.replies := rfl

/-! ### complete -/

@[simp] theorem State.complete_busy (r : Nat) : (s.complete r).busy = false := rfl
@[simp] theorem State.complete_done (r : Nat) : (s.complete r).done = true := rfl
@[simp] theorem State.complete_fault (r : Nat) : (s.complete r).fault = s.fault := rfl
@[simp] theorem State.complete_trunc (r : Nat) : (s.complete r).trunc = s.trunc := rfl
@[simp] theorem State.complete_underrun (r : Nat) : (s.complete r).underrun = s.underrun := rfl
@[simp] theorem State.complete_errcode (r : Nat) : (s.complete r).errcode = s.errcode := rfl
@[simp] theorem State.complete_cmd (r : Nat) : (s.complete r).cmd = s.cmd := rfl
@[simp] theorem State.complete_res (r : Nat) : (s.complete r).res = BitVec.ofNat 32 r := rfl
@[simp] theorem State.complete_cfgN (r : Nat) : (s.complete r).cfgN = s.cfgN := rfl
@[simp] theorem State.complete_cfgM (r : Nat) : (s.complete r).cfgM = s.cfgM := rfl
@[simp] theorem State.complete_src0 (r : Nat) : (s.complete r).src0 = s.src0 := rfl
@[simp] theorem State.complete_src1 (r : Nat) : (s.complete r).src1 = s.src1 := rfl
@[simp] theorem State.complete_dst0 (r : Nat) : (s.complete r).dst0 = s.dst0 := rfl
@[simp] theorem State.complete_dst1 (r : Nat) : (s.complete r).dst1 = s.dst1 := rfl
@[simp] theorem State.complete_cnt (r : Nat) : (s.complete r).cnt = s.cnt := rfl
@[simp] theorem State.complete_rmem (r : Nat) : (s.complete r).rmem = s.rmem := rfl
@[simp] theorem State.complete_qmem (r : Nat) : (s.complete r).qmem = s.qmem := rfl
@[simp] theorem State.complete_bmem (r : Nat) : (s.complete r).bmem = s.bmem := rfl
@[simp] theorem State.complete_resets (r : Nat) : (s.complete r).resets = s.resets := rfl
@[simp] theorem State.complete_draws (r : Nat) : (s.complete r).draws = s.draws := rfl
@[simp] theorem State.complete_turns (r : Nat) : (s.complete r).turns = s.turns := rfl
@[simp] theorem State.complete_replies (r : Nat) : (s.complete r).replies = s.replies := rfl

/-! ### setTrunc -/

@[simp] theorem State.setTrunc_busy (b : Bool) : (s.setTrunc b).busy = s.busy := rfl
@[simp] theorem State.setTrunc_done (b : Bool) : (s.setTrunc b).done = s.done := rfl
@[simp] theorem State.setTrunc_fault (b : Bool) : (s.setTrunc b).fault = s.fault := rfl
@[simp] theorem State.setTrunc_trunc (b : Bool) : (s.setTrunc b).trunc = (s.trunc || b) := rfl
@[simp] theorem State.setTrunc_underrun (b : Bool) : (s.setTrunc b).underrun = s.underrun := rfl
@[simp] theorem State.setTrunc_errcode (b : Bool) : (s.setTrunc b).errcode = s.errcode := rfl
@[simp] theorem State.setTrunc_cmd (b : Bool) : (s.setTrunc b).cmd = s.cmd := rfl
@[simp] theorem State.setTrunc_res (b : Bool) : (s.setTrunc b).res = s.res := rfl
@[simp] theorem State.setTrunc_cfgN (b : Bool) : (s.setTrunc b).cfgN = s.cfgN := rfl
@[simp] theorem State.setTrunc_cfgM (b : Bool) : (s.setTrunc b).cfgM = s.cfgM := rfl
@[simp] theorem State.setTrunc_src0 (b : Bool) : (s.setTrunc b).src0 = s.src0 := rfl
@[simp] theorem State.setTrunc_src1 (b : Bool) : (s.setTrunc b).src1 = s.src1 := rfl
@[simp] theorem State.setTrunc_dst0 (b : Bool) : (s.setTrunc b).dst0 = s.dst0 := rfl
@[simp] theorem State.setTrunc_dst1 (b : Bool) : (s.setTrunc b).dst1 = s.dst1 := rfl
@[simp] theorem State.setTrunc_cnt (b : Bool) : (s.setTrunc b).cnt = s.cnt := rfl
@[simp] theorem State.setTrunc_rmem (b : Bool) : (s.setTrunc b).rmem = s.rmem := rfl
@[simp] theorem State.setTrunc_qmem (b : Bool) : (s.setTrunc b).qmem = s.qmem := rfl
@[simp] theorem State.setTrunc_bmem (b : Bool) : (s.setTrunc b).bmem = s.bmem := rfl
@[simp] theorem State.setTrunc_resets (b : Bool) : (s.setTrunc b).resets = s.resets := rfl
@[simp] theorem State.setTrunc_draws (b : Bool) : (s.setTrunc b).draws = s.draws := rfl
@[simp] theorem State.setTrunc_turns (b : Bool) : (s.setTrunc b).turns = s.turns := rfl
@[simp] theorem State.setTrunc_replies (b : Bool) : (s.setTrunc b).replies = s.replies := rfl

/-! ### setUnderrun -/

@[simp] theorem State.setUnderrun_busy (b : Bool) : (s.setUnderrun b).busy = s.busy := rfl
@[simp] theorem State.setUnderrun_done (b : Bool) : (s.setUnderrun b).done = s.done := rfl
@[simp] theorem State.setUnderrun_fault (b : Bool) : (s.setUnderrun b).fault = s.fault := rfl
@[simp] theorem State.setUnderrun_trunc (b : Bool) : (s.setUnderrun b).trunc = s.trunc := rfl
@[simp] theorem State.setUnderrun_underrun (b : Bool) : (s.setUnderrun b).underrun = (s.underrun || b) := rfl
@[simp] theorem State.setUnderrun_errcode (b : Bool) : (s.setUnderrun b).errcode = s.errcode := rfl
@[simp] theorem State.setUnderrun_cmd (b : Bool) : (s.setUnderrun b).cmd = s.cmd := rfl
@[simp] theorem State.setUnderrun_res (b : Bool) : (s.setUnderrun b).res = s.res := rfl
@[simp] theorem State.setUnderrun_cfgN (b : Bool) : (s.setUnderrun b).cfgN = s.cfgN := rfl
@[simp] theorem State.setUnderrun_cfgM (b : Bool) : (s.setUnderrun b).cfgM = s.cfgM := rfl
@[simp] theorem State.setUnderrun_src0 (b : Bool) : (s.setUnderrun b).src0 = s.src0 := rfl
@[simp] theorem State.setUnderrun_src1 (b : Bool) : (s.setUnderrun b).src1 = s.src1 := rfl
@[simp] theorem State.setUnderrun_dst0 (b : Bool) : (s.setUnderrun b).dst0 = s.dst0 := rfl
@[simp] theorem State.setUnderrun_dst1 (b : Bool) : (s.setUnderrun b).dst1 = s.dst1 := rfl
@[simp] theorem State.setUnderrun_cnt (b : Bool) : (s.setUnderrun b).cnt = s.cnt := rfl
@[simp] theorem State.setUnderrun_rmem (b : Bool) : (s.setUnderrun b).rmem = s.rmem := rfl
@[simp] theorem State.setUnderrun_qmem (b : Bool) : (s.setUnderrun b).qmem = s.qmem := rfl
@[simp] theorem State.setUnderrun_bmem (b : Bool) : (s.setUnderrun b).bmem = s.bmem := rfl
@[simp] theorem State.setUnderrun_resets (b : Bool) : (s.setUnderrun b).resets = s.resets := rfl
@[simp] theorem State.setUnderrun_draws (b : Bool) : (s.setUnderrun b).draws = s.draws := rfl
@[simp] theorem State.setUnderrun_turns (b : Bool) : (s.setUnderrun b).turns = s.turns := rfl
@[simp] theorem State.setUnderrun_replies (b : Bool) : (s.setUnderrun b).replies = s.replies := rfl

/-! ### writeR -/

@[simp] theorem State.writeR_busy (a : Word) (vs : List α) : (s.writeR a vs).busy = s.busy := rfl
@[simp] theorem State.writeR_done (a : Word) (vs : List α) : (s.writeR a vs).done = s.done := rfl
@[simp] theorem State.writeR_fault (a : Word) (vs : List α) : (s.writeR a vs).fault = s.fault := rfl
@[simp] theorem State.writeR_trunc (a : Word) (vs : List α) : (s.writeR a vs).trunc = s.trunc := rfl
@[simp] theorem State.writeR_underrun (a : Word) (vs : List α) : (s.writeR a vs).underrun = s.underrun := rfl
@[simp] theorem State.writeR_errcode (a : Word) (vs : List α) : (s.writeR a vs).errcode = s.errcode := rfl
@[simp] theorem State.writeR_cmd (a : Word) (vs : List α) : (s.writeR a vs).cmd = s.cmd := rfl
@[simp] theorem State.writeR_res (a : Word) (vs : List α) : (s.writeR a vs).res = s.res := rfl
@[simp] theorem State.writeR_cfgN (a : Word) (vs : List α) : (s.writeR a vs).cfgN = s.cfgN := rfl
@[simp] theorem State.writeR_cfgM (a : Word) (vs : List α) : (s.writeR a vs).cfgM = s.cfgM := rfl
@[simp] theorem State.writeR_src0 (a : Word) (vs : List α) : (s.writeR a vs).src0 = s.src0 := rfl
@[simp] theorem State.writeR_src1 (a : Word) (vs : List α) : (s.writeR a vs).src1 = s.src1 := rfl
@[simp] theorem State.writeR_dst0 (a : Word) (vs : List α) : (s.writeR a vs).dst0 = s.dst0 := rfl
@[simp] theorem State.writeR_dst1 (a : Word) (vs : List α) : (s.writeR a vs).dst1 = s.dst1 := rfl
@[simp] theorem State.writeR_cnt (a : Word) (vs : List α) : (s.writeR a vs).cnt = s.cnt := rfl
@[simp] theorem State.writeR_rmem (a : Word) (vs : List α) : (s.writeR a vs).rmem = Memory.writeRegion a.toNat vs s.rmem := rfl
@[simp] theorem State.writeR_qmem (a : Word) (vs : List α) : (s.writeR a vs).qmem = s.qmem := rfl
@[simp] theorem State.writeR_bmem (a : Word) (vs : List α) : (s.writeR a vs).bmem = s.bmem := rfl
@[simp] theorem State.writeR_resets (a : Word) (vs : List α) : (s.writeR a vs).resets = s.resets := rfl
@[simp] theorem State.writeR_draws (a : Word) (vs : List α) : (s.writeR a vs).draws = s.draws := rfl
@[simp] theorem State.writeR_turns (a : Word) (vs : List α) : (s.writeR a vs).turns = s.turns := rfl
@[simp] theorem State.writeR_replies (a : Word) (vs : List α) : (s.writeR a vs).replies = s.replies := rfl

/-! ### writeQ -/

@[simp] theorem State.writeQ_busy (a : Word) (zs : List Int) : (s.writeQ a zs).busy = s.busy := rfl
@[simp] theorem State.writeQ_done (a : Word) (zs : List Int) : (s.writeQ a zs).done = s.done := rfl
@[simp] theorem State.writeQ_fault (a : Word) (zs : List Int) : (s.writeQ a zs).fault = s.fault := rfl
@[simp] theorem State.writeQ_trunc (a : Word) (zs : List Int) : (s.writeQ a zs).trunc = s.trunc := rfl
@[simp] theorem State.writeQ_underrun (a : Word) (zs : List Int) : (s.writeQ a zs).underrun = s.underrun := rfl
@[simp] theorem State.writeQ_errcode (a : Word) (zs : List Int) : (s.writeQ a zs).errcode = s.errcode := rfl
@[simp] theorem State.writeQ_cmd (a : Word) (zs : List Int) : (s.writeQ a zs).cmd = s.cmd := rfl
@[simp] theorem State.writeQ_res (a : Word) (zs : List Int) : (s.writeQ a zs).res = s.res := rfl
@[simp] theorem State.writeQ_cfgN (a : Word) (zs : List Int) : (s.writeQ a zs).cfgN = s.cfgN := rfl
@[simp] theorem State.writeQ_cfgM (a : Word) (zs : List Int) : (s.writeQ a zs).cfgM = s.cfgM := rfl
@[simp] theorem State.writeQ_src0 (a : Word) (zs : List Int) : (s.writeQ a zs).src0 = s.src0 := rfl
@[simp] theorem State.writeQ_src1 (a : Word) (zs : List Int) : (s.writeQ a zs).src1 = s.src1 := rfl
@[simp] theorem State.writeQ_dst0 (a : Word) (zs : List Int) : (s.writeQ a zs).dst0 = s.dst0 := rfl
@[simp] theorem State.writeQ_dst1 (a : Word) (zs : List Int) : (s.writeQ a zs).dst1 = s.dst1 := rfl
@[simp] theorem State.writeQ_cnt (a : Word) (zs : List Int) : (s.writeQ a zs).cnt = s.cnt := rfl
@[simp] theorem State.writeQ_rmem (a : Word) (zs : List Int) : (s.writeQ a zs).rmem = s.rmem := rfl
@[simp] theorem State.writeQ_qmem (a : Word) (zs : List Int) : (s.writeQ a zs).qmem = Memory.writeRegion a.toNat (zs.map (BitVec.ofInt 32)) s.qmem := rfl
@[simp] theorem State.writeQ_bmem (a : Word) (zs : List Int) : (s.writeQ a zs).bmem = s.bmem := rfl
@[simp] theorem State.writeQ_resets (a : Word) (zs : List Int) : (s.writeQ a zs).resets = s.resets := rfl
@[simp] theorem State.writeQ_draws (a : Word) (zs : List Int) : (s.writeQ a zs).draws = s.draws := rfl
@[simp] theorem State.writeQ_turns (a : Word) (zs : List Int) : (s.writeQ a zs).turns = s.turns := rfl
@[simp] theorem State.writeQ_replies (a : Word) (zs : List Int) : (s.writeQ a zs).replies = s.replies := rfl

/-! ### writeB -/

@[simp] theorem State.writeB_busy (a : Word) (bs : List Byte) : (s.writeB a bs).busy = s.busy := rfl
@[simp] theorem State.writeB_done (a : Word) (bs : List Byte) : (s.writeB a bs).done = s.done := rfl
@[simp] theorem State.writeB_fault (a : Word) (bs : List Byte) : (s.writeB a bs).fault = s.fault := rfl
@[simp] theorem State.writeB_trunc (a : Word) (bs : List Byte) : (s.writeB a bs).trunc = s.trunc := rfl
@[simp] theorem State.writeB_underrun (a : Word) (bs : List Byte) : (s.writeB a bs).underrun = s.underrun := rfl
@[simp] theorem State.writeB_errcode (a : Word) (bs : List Byte) : (s.writeB a bs).errcode = s.errcode := rfl
@[simp] theorem State.writeB_cmd (a : Word) (bs : List Byte) : (s.writeB a bs).cmd = s.cmd := rfl
@[simp] theorem State.writeB_res (a : Word) (bs : List Byte) : (s.writeB a bs).res = s.res := rfl
@[simp] theorem State.writeB_cfgN (a : Word) (bs : List Byte) : (s.writeB a bs).cfgN = s.cfgN := rfl
@[simp] theorem State.writeB_cfgM (a : Word) (bs : List Byte) : (s.writeB a bs).cfgM = s.cfgM := rfl
@[simp] theorem State.writeB_src0 (a : Word) (bs : List Byte) : (s.writeB a bs).src0 = s.src0 := rfl
@[simp] theorem State.writeB_src1 (a : Word) (bs : List Byte) : (s.writeB a bs).src1 = s.src1 := rfl
@[simp] theorem State.writeB_dst0 (a : Word) (bs : List Byte) : (s.writeB a bs).dst0 = s.dst0 := rfl
@[simp] theorem State.writeB_dst1 (a : Word) (bs : List Byte) : (s.writeB a bs).dst1 = s.dst1 := rfl
@[simp] theorem State.writeB_cnt (a : Word) (bs : List Byte) : (s.writeB a bs).cnt = s.cnt := rfl
@[simp] theorem State.writeB_rmem (a : Word) (bs : List Byte) : (s.writeB a bs).rmem = s.rmem := rfl
@[simp] theorem State.writeB_qmem (a : Word) (bs : List Byte) : (s.writeB a bs).qmem = s.qmem := rfl
@[simp] theorem State.writeB_bmem (a : Word) (bs : List Byte) : (s.writeB a bs).bmem = Memory.writeRegion a.toNat bs s.bmem := rfl
@[simp] theorem State.writeB_resets (a : Word) (bs : List Byte) : (s.writeB a bs).resets = s.resets := rfl
@[simp] theorem State.writeB_draws (a : Word) (bs : List Byte) : (s.writeB a bs).draws = s.draws := rfl
@[simp] theorem State.writeB_turns (a : Word) (bs : List Byte) : (s.writeB a bs).turns = s.turns := rfl
@[simp] theorem State.writeB_replies (a : Word) (bs : List Byte) : (s.writeB a bs).replies = s.replies := rfl

/-! ### reply -/

@[simp] theorem State.reply_busy (r : Reply α) : (s.reply r).busy = s.busy := rfl
@[simp] theorem State.reply_done (r : Reply α) : (s.reply r).done = s.done := rfl
@[simp] theorem State.reply_fault (r : Reply α) : (s.reply r).fault = s.fault := rfl
@[simp] theorem State.reply_trunc (r : Reply α) : (s.reply r).trunc = s.trunc := rfl
@[simp] theorem State.reply_underrun (r : Reply α) : (s.reply r).underrun = s.underrun := rfl
@[simp] theorem State.reply_errcode (r : Reply α) : (s.reply r).errcode = s.errcode := rfl
@[simp] theorem State.reply_cmd (r : Reply α) : (s.reply r).cmd = s.cmd := rfl
@[simp] theorem State.reply_res (r : Reply α) : (s.reply r).res = s.res := rfl
@[simp] theorem State.reply_cfgN (r : Reply α) : (s.reply r).cfgN = s.cfgN := rfl
@[simp] theorem State.reply_cfgM (r : Reply α) : (s.reply r).cfgM = s.cfgM := rfl
@[simp] theorem State.reply_src0 (r : Reply α) : (s.reply r).src0 = s.src0 := rfl
@[simp] theorem State.reply_src1 (r : Reply α) : (s.reply r).src1 = s.src1 := rfl
@[simp] theorem State.reply_dst0 (r : Reply α) : (s.reply r).dst0 = s.dst0 := rfl
@[simp] theorem State.reply_dst1 (r : Reply α) : (s.reply r).dst1 = s.dst1 := rfl
@[simp] theorem State.reply_cnt (r : Reply α) : (s.reply r).cnt = s.cnt := rfl
@[simp] theorem State.reply_rmem (r : Reply α) : (s.reply r).rmem = s.rmem := rfl
@[simp] theorem State.reply_qmem (r : Reply α) : (s.reply r).qmem = s.qmem := rfl
@[simp] theorem State.reply_bmem (r : Reply α) : (s.reply r).bmem = s.bmem := rfl
@[simp] theorem State.reply_resets (r : Reply α) : (s.reply r).resets = s.resets := rfl
@[simp] theorem State.reply_draws (r : Reply α) : (s.reply r).draws = s.draws := rfl
@[simp] theorem State.reply_turns (r : Reply α) : (s.reply r).turns = s.turns := rfl
@[simp] theorem State.reply_replies (r : Reply α) : (s.reply r).replies = r :: s.replies := rfl

/-! ### softReset -/

@[simp] theorem State.softReset_busy : (s.softReset).busy = false := rfl
@[simp] theorem State.softReset_done : (s.softReset).done = false := rfl
@[simp] theorem State.softReset_fault : (s.softReset).fault = false := rfl
@[simp] theorem State.softReset_trunc : (s.softReset).trunc = false := rfl
@[simp] theorem State.softReset_underrun : (s.softReset).underrun = false := rfl
@[simp] theorem State.softReset_errcode : (s.softReset).errcode = 0 := rfl
@[simp] theorem State.softReset_cmd : (s.softReset).cmd = 0 := rfl
@[simp] theorem State.softReset_res : (s.softReset).res = 0 := rfl
@[simp] theorem State.softReset_cfgN : (s.softReset).cfgN = 0 := rfl
@[simp] theorem State.softReset_cfgM : (s.softReset).cfgM = 0 := rfl
@[simp] theorem State.softReset_src0 : (s.softReset).src0 = 0 := rfl
@[simp] theorem State.softReset_src1 : (s.softReset).src1 = 0 := rfl
@[simp] theorem State.softReset_dst0 : (s.softReset).dst0 = 0 := rfl
@[simp] theorem State.softReset_dst1 : (s.softReset).dst1 = 0 := rfl
@[simp] theorem State.softReset_cnt : (s.softReset).cnt = 0 := rfl
@[simp] theorem State.softReset_rmem : (s.softReset).rmem = s.rmem := rfl
@[simp] theorem State.softReset_qmem : (s.softReset).qmem = s.qmem := rfl
@[simp] theorem State.softReset_bmem : (s.softReset).bmem = s.bmem := rfl
@[simp] theorem State.softReset_resets : (s.softReset).resets = s.resets := rfl
@[simp] theorem State.softReset_draws : (s.softReset).draws = s.draws := rfl
@[simp] theorem State.softReset_turns : (s.softReset).turns = s.turns := rfl
@[simp] theorem State.softReset_replies : (s.softReset).replies = s.replies := rfl

/-! ### powerReset -/

@[simp] theorem State.powerReset_busy : (s.powerReset).busy = false := rfl
@[simp] theorem State.powerReset_done : (s.powerReset).done = false := rfl
@[simp] theorem State.powerReset_fault : (s.powerReset).fault = false := rfl
@[simp] theorem State.powerReset_trunc : (s.powerReset).trunc = false := rfl
@[simp] theorem State.powerReset_underrun : (s.powerReset).underrun = false := rfl
@[simp] theorem State.powerReset_errcode : (s.powerReset).errcode = 0 := rfl
@[simp] theorem State.powerReset_cmd : (s.powerReset).cmd = 0 := rfl
@[simp] theorem State.powerReset_res : (s.powerReset).res = 0 := rfl
@[simp] theorem State.powerReset_cfgN : (s.powerReset).cfgN = 0 := rfl
@[simp] theorem State.powerReset_cfgM : (s.powerReset).cfgM = 0 := rfl
@[simp] theorem State.powerReset_src0 : (s.powerReset).src0 = 0 := rfl
@[simp] theorem State.powerReset_src1 : (s.powerReset).src1 = 0 := rfl
@[simp] theorem State.powerReset_dst0 : (s.powerReset).dst0 = 0 := rfl
@[simp] theorem State.powerReset_dst1 : (s.powerReset).dst1 = 0 := rfl
@[simp] theorem State.powerReset_cnt : (s.powerReset).cnt = 0 := rfl
@[simp] theorem State.powerReset_rmem : (s.powerReset).rmem = [] := rfl
@[simp] theorem State.powerReset_qmem : (s.powerReset).qmem = [] := rfl
@[simp] theorem State.powerReset_bmem : (s.powerReset).bmem = [] := rfl
@[simp] theorem State.powerReset_resets : (s.powerReset).resets = s.resets + 1 := rfl
@[simp] theorem State.powerReset_draws : (s.powerReset).draws = s.draws := rfl
@[simp] theorem State.powerReset_turns : (s.powerReset).turns = s.turns := rfl
@[simp] theorem State.powerReset_replies : (s.powerReset).replies = s.replies := rfl

/-! ### unspecify, abandonReset, hardwareReset -/

section HardwareReset

variable [Inhabited α] (p : Params) (r : Region)

/-- Making a region unspecified touches one memory and no other field. -/
theorem State.unspecify_eq :
    s.unspecify p r =
      { s with rmem := (s.unspecify p r).rmem, qmem := (s.unspecify p r).qmem, bmem := (s.unspecify p r).bmem } := by
  unfold State.unspecify
  cases r.space <;> rfl

@[simp] theorem State.unspecify_draws : (s.unspecify p r).draws = s.draws := by rw [State.unspecify_eq]
@[simp] theorem State.unspecify_resets : (s.unspecify p r).resets = s.resets := by rw [State.unspecify_eq]
@[simp] theorem State.unspecify_turns : (s.unspecify p r).turns = s.turns := by rw [State.unspecify_eq]
@[simp] theorem State.unspecify_replies : (s.unspecify p r).replies = s.replies := by rw [State.unspecify_eq]

/-- Several regions made unspecified, one after the other. -/
theorem State.foldl_unspecify_eq (rs : List Region) :
    rs.foldl (fun u r => u.unspecify p r) s =
      { s with
        rmem := (rs.foldl (fun u r => u.unspecify p r) s).rmem
        qmem := (rs.foldl (fun u r => u.unspecify p r) s).qmem
        bmem := (rs.foldl (fun u r => u.unspecify p r) s).bmem } := by
  induction rs generalizing s with
  | nil => rfl
  | cons r rs ih => rw [List.foldl_cons, ih, State.unspecify_eq]

theorem State.hardwareReset_pending (h : s.busy = true) : s.hardwareReset p = s.abandonReset p := if_pos h

theorem State.hardwareReset_idle (h : s.busy = false) : s.hardwareReset p = s.powerReset := by
  simp [State.hardwareReset, h]

/-- Everything a hardware reset can do to the fields that are no memory: the registers take their reset values. -/
theorem State.hardwareReset_eq :
    s.hardwareReset p =
      { (State.initial : State α) with
        rmem := (s.hardwareReset p).rmem, qmem := (s.hardwareReset p).qmem, bmem := (s.hardwareReset p).bmem
        resets := if s.busy then s.resets else s.resets + 1
        draws := if s.busy then s.draws + 1 else s.draws
        turns := s.turns, replies := s.replies } := by
  cases hb : s.busy with
  | true =>
    rw [State.hardwareReset_pending s p hb, State.abandonReset, State.foldl_unspecify_eq]
    rfl
  | false =>
    rw [State.hardwareReset_idle s p hb]
    rfl

@[simp] theorem State.hardwareReset_busy : (s.hardwareReset p).busy = false := by
  rw [State.hardwareReset_eq]; rfl
@[simp] theorem State.hardwareReset_done : (s.hardwareReset p).done = false := by
  rw [State.hardwareReset_eq]; rfl
@[simp] theorem State.hardwareReset_fault : (s.hardwareReset p).fault = false := by
  rw [State.hardwareReset_eq]; rfl
@[simp] theorem State.hardwareReset_trunc : (s.hardwareReset p).trunc = false := by
  rw [State.hardwareReset_eq]; rfl
@[simp] theorem State.hardwareReset_underrun : (s.hardwareReset p).underrun = false := by
  rw [State.hardwareReset_eq]; rfl
@[simp] theorem State.hardwareReset_errcode : (s.hardwareReset p).errcode = 0 := by
  rw [State.hardwareReset_eq]; rfl
@[simp] theorem State.hardwareReset_cmd : (s.hardwareReset p).cmd = 0 := by
  rw [State.hardwareReset_eq]; rfl
@[simp] theorem State.hardwareReset_res : (s.hardwareReset p).res = 0 := by
  rw [State.hardwareReset_eq]; rfl
@[simp] theorem State.hardwareReset_cfgN : (s.hardwareReset p).cfgN = 0 := by
  rw [State.hardwareReset_eq]; rfl
@[simp] theorem State.hardwareReset_cfgM : (s.hardwareReset p).cfgM = 0 := by
  rw [State.hardwareReset_eq]; rfl
@[simp] theorem State.hardwareReset_src0 : (s.hardwareReset p).src0 = 0 := by
  rw [State.hardwareReset_eq]; rfl
@[simp] theorem State.hardwareReset_src1 : (s.hardwareReset p).src1 = 0 := by
  rw [State.hardwareReset_eq]; rfl
@[simp] theorem State.hardwareReset_dst0 : (s.hardwareReset p).dst0 = 0 := by
  rw [State.hardwareReset_eq]; rfl
@[simp] theorem State.hardwareReset_dst1 : (s.hardwareReset p).dst1 = 0 := by
  rw [State.hardwareReset_eq]; rfl
@[simp] theorem State.hardwareReset_cnt : (s.hardwareReset p).cnt = 0 := by
  rw [State.hardwareReset_eq]; rfl
@[simp] theorem State.hardwareReset_turns : (s.hardwareReset p).turns = s.turns := by rw [State.hardwareReset_eq]
@[simp] theorem State.hardwareReset_replies : (s.hardwareReset p).replies = s.replies := by rw [State.hardwareReset_eq]

end HardwareReset

end Sys2Proof.Machine
end

