-- ==== Sys2Proof/Laws/Checks.lean ====
section
/-!
SUPPORT. What the common checks and the shared operations over them can do, said once.
-/

namespace Sys2Proof.Machine

variable {α : Type}

theorem commonFault_config {p : Params} {o : Operands} {s : State α} (h : ¬ ConfigValid p s) :
    commonFault p o s = some .config := by simp only [commonFault, if_pos h]

theorem commonFault_bounds {p : Params} {o : Operands} {s : State α} (h : ConfigValid p s)
    (hb : ¬ ∀ r ∈ o.regions, r.InBounds p) : commonFault p o s = some .bounds := by
  simp only [commonFault, if_neg (not_not.2 h), if_pos hb]

theorem commonFault_overlap {p : Params} {o : Operands} {s : State α} (h : ConfigValid p s)
    (hb : ∀ r ∈ o.regions, r.InBounds p) (ho : ∃ q ∈ o.pairs, Region.Overlaps q.1 q.2) :
    commonFault p o s = some .overlap := by
  simp only [commonFault, if_neg (not_not.2 h), if_neg (not_not.2 hb), if_pos ho]

theorem commonFault_none {p : Params} {o : Operands} {s : State α} (h : ConfigValid p s)
    (hb : ∀ r ∈ o.regions, r.InBounds p) (ho : ¬ ∃ q ∈ o.pairs, Region.Overlaps q.1 q.2) :
    commonFault p o s = none := by
  simp only [commonFault, if_neg (not_not.2 h), if_neg (not_not.2 hb), if_neg ho]

/-- The common checks raise nothing but E_CONFIG, E_BOUNDS and E_OVERLAP, and pass exactly when all three conditions
hold. -/
theorem commonFault_cases (p : Params) (o : Operands) (s : State α) :
    (commonFault p o s = some .config ∧ ¬ ConfigValid p s) ∨
    (commonFault p o s = some .bounds ∧ ConfigValid p s ∧ ¬ ∀ r ∈ o.regions, r.InBounds p) ∨
    (commonFault p o s = some .overlap ∧ ConfigValid p s ∧ (∀ r ∈ o.regions, r.InBounds p) ∧
      ∃ q ∈ o.pairs, Region.Overlaps q.1 q.2) ∨
    (commonFault p o s = none ∧ ConfigValid p s ∧ (∀ r ∈ o.regions, r.InBounds p) ∧
      ¬ ∃ q ∈ o.pairs, Region.Overlaps q.1 q.2) := by
  by_cases h : ConfigValid p s
  · by_cases hb : ∀ r ∈ o.regions, r.InBounds p
    · by_cases ho : ∃ q ∈ o.pairs, Region.Overlaps q.1 q.2
      · exact .inr (.inr (.inl ⟨commonFault_overlap h hb ho, h, hb, ho⟩))
      · exact .inr (.inr (.inr ⟨commonFault_none h hb ho, h, hb, ho⟩))
    · exact .inr (.inl ⟨commonFault_bounds h hb, h, hb⟩)
  · exact .inl ⟨commonFault_config h, h⟩

/-- A checked step faults with the fault of the checks. -/
theorem State.checked_fault {p : Params} {o : Operands} {s effect : State α} {e : ErrCode}
    (h : commonFault p o s = some e) : s.checked p o effect = s.raise e := by simp only [State.checked, h]

/-- A checked step whose checks pass is the command's effect. -/
theorem State.checked_pass {p : Params} {o : Operands} {s effect : State α} (h : commonFault p o s = none) :
    s.checked p o effect = effect := by simp only [State.checked, h]

/-- Everything a checked step can be. -/
theorem State.checked_cases (p : Params) (o : Operands) (s effect : State α) :
    (∃ e, commonFault p o s = some e ∧ (e = .config ∨ e = .bounds ∨ e = .overlap) ∧ s.checked p o effect = s.raise e) ∨
    (commonFault p o s = none ∧ ConfigValid p s ∧ (∀ r ∈ o.regions, r.InBounds p) ∧
      (¬ ∃ q ∈ o.pairs, Region.Overlaps q.1 q.2) ∧ s.checked p o effect = effect) := by
  rcases commonFault_cases p o s with ⟨h, -⟩ | ⟨h, -⟩ | ⟨h, -⟩ | ⟨h, hc, hb, ho⟩
  · exact .inl ⟨_, h, .inl rfl, State.checked_fault h⟩
  · exact .inl ⟨_, h, .inr (.inl rfl), State.checked_fault h⟩
  · exact .inl ⟨_, h, .inr (.inr rfl), State.checked_fault h⟩
  · exact .inr ⟨h, hc, hb, ho, State.checked_pass h⟩

/-- The regions of a command with one source and one destination. -/
theorem Operands.oneByOne_inBounds (p : Params) (a b : Region) :
    (∀ r ∈ (Operands.oneByOne a b).regions, r.InBounds p) ↔ a.InBounds p ∧ b.InBounds p := by
  simp [Operands.oneByOne]

theorem Operands.oneByOne_overlap (a b : Region) :
    (∃ q ∈ (Operands.oneByOne a b).pairs, Region.Overlaps q.1 q.2) ↔ a.Overlaps b := by
  simp [Operands.oneByOne]

/-- Regions in different spaces never overlap (R48). -/
theorem Region.not_overlaps_of_space {a b : Region} (h : a.space ≠ b.space) : ¬ a.Overlaps b := fun ho => h ho.1

/-- The regions of MSFWD and MSINV. -/
theorem Operands.twoByTwo_inBounds (p : Params) (a b c d : Region) :
    (∀ r ∈ (Operands.twoByTwo a b c d).regions, r.InBounds p) ↔
      a.InBounds p ∧ b.InBounds p ∧ c.InBounds p ∧ d.InBounds p := by
  simp [Operands.twoByTwo]

theorem Operands.twoByTwo_overlap (a b c d : Region) :
    (∃ q ∈ (Operands.twoByTwo a b c d).pairs, Region.Overlaps q.1 q.2) ↔
      a.Overlaps c ∨ a.Overlaps d ∨ b.Overlaps c ∨ b.Overlaps d ∨ c.Overlaps d := by
  simp [Operands.twoByTwo]

theorem Operands.sourceOnly_inBounds (p : Params) (a : Region) :
    (∀ r ∈ (Operands.sourceOnly a).regions, r.InBounds p) ↔ a.InBounds p := by
  simp [Operands.sourceOnly]

theorem Operands.sourceOnly_overlap (a : Region) :
    ¬ ∃ q ∈ (Operands.sourceOnly a).pairs, Region.Overlaps q.1 q.2 := by
  simp [Operands.sourceOnly]

end Sys2Proof.Machine
end

