-- ==== Sys2Proof/Laws/Exec.lean ====
section
/-!
SUPPORT. Each arm of `exec`, and everything a step can do.
-/

namespace Sys2Proof.Machine

variable {α : Type}

/-! ### The arms -/

@[simp] theorem exec_msfwd (s : State) : exec .msfwd s = .next (msfwdOn Config.params binary64 s) := rfl
@[simp] theorem exec_frame (s : State) : exec .frame s = .next (frameOn Config.params binary64 s) := rfl
@[simp] theorem exec_wina (s : State) : exec .wina s = .next (winaOn Config.params binary64 s) := rfl
@[simp] theorem exec_mdct (s : State) : exec .mdct s = .next (mdctOn Config.params binary64 s) := rfl
@[simp] theorem exec_quant (s : State) : exec .quant s = .next (quantOn Config.params binary64 s) := rfl
@[simp] theorem exec_pack (s : State) : exec .pack s = .next (packOn Config.params s) := rfl
@[simp] theorem exec_unpack (s : State) : exec .unpack s = .next (unpackOn Config.params s) := rfl
@[simp] theorem exec_dequant (s : State) : exec .dequant s = .next (dequantOn Config.params binary64 s) := rfl
@[simp] theorem exec_imdct (s : State) : exec .imdct s = .next (imdctOn Config.params binary64 s) := rfl
@[simp] theorem exec_wins (s : State) : exec .wins s = .next (winsOn Config.params binary64 s) := rfl
@[simp] theorem exec_ola (s : State) : exec .ola s = .next (olaOn Config.params binary64 s) := rfl
@[simp] theorem exec_msinv (s : State) : exec .msinv s = .next (msinvOn Config.params binary64 s) := rfl
@[simp] theorem exec_pcmout (s : State) : exec .pcmout s = .next (pcmoutOn Config.params binary64 s) := rfl

/-- The host's `exec` is `execOn` at R7's default parameters. -/
theorem exec_eq_execOn (i : Instr) (s : State) : exec i s = execOn Config.params binary64 i s := by
  cases i <;> rfl

/-- No command stops the machine: it completes or takes its fault, either way a next state (R36). -/
theorem execOn_next [Inhabited α] (p : Params) (nm : Numerics α) (i : Instr) (s : State α) :
    ∃ t, execOn p nm i s = .next t := by
  cases i <;> exact ⟨_, rfl⟩

theorem exec_next (i : Instr) (s : State) : ∃ t, exec i s = .next t := by
  cases i <;> exact ⟨_, rfl⟩

/-- A completed command's destinations, all at once: what its effect can be. -/
inductive EffectOf (p : Params) (s : State α) : State α → Prop where
  /-- One region of RMEM. -/
  | writesR (vs : List α) (res : Nat) (h : (region .rmem s.dst0 vs.length).InBounds p) :
      EffectOf p s ((s.writeR s.dst0 vs).complete res)
  /-- Two regions of RMEM. -/
  | writesRR (vs ws : List α) (h : (region .rmem s.dst0 vs.length).InBounds p)
      (h' : (region .rmem s.dst1 ws.length).InBounds p) :
      EffectOf p s (((s.writeR s.dst0 vs).writeR s.dst1 ws).complete 0)
  /-- One region of QMEM. -/
  | writesQ (zs : List Int) (underrun : Bool) (h : (region .qmem s.dst0 zs.length).InBounds p) :
      EffectOf p s (((s.writeQ s.dst0 zs).setUnderrun underrun).complete 0)
  /-- One region of BMEM. -/
  | writesB (bs : List Byte) (trunc : Bool) (res : Nat) (h : (region .bmem s.dst0 bs.length).InBounds p) :
      EffectOf p s (((s.writeB s.dst0 bs).setTrunc trunc).complete res)

theorem State.setUnderrun_false (s : State α) : s.setUnderrun false = s := by
  cases s; simp [State.setUnderrun]

/-- Everything a command can do, on every build and in every numerics: it takes one fault, which is not E_ILLEGAL, or
completes with one of four effects. -/
theorem execOn_cases [Inhabited α] (p : Params) (nm : Numerics α) (i : Instr) (s t : State α)
    (h : execOn p nm i s = .next t) : (∃ e, e ≠ .illegal ∧ t = s.raise e) ∨ EffectOf p s t := by
  have chk : ∀ (o : Operands) (effect : State α), s.checked p o effect = t →
      (∃ e, e ≠ .illegal ∧ t = s.raise e) ∨ ((∀ r ∈ o.regions, r.InBounds p) ∧ t = effect) := by
    intro o effect ht
    rcases State.checked_cases p o s effect with ⟨e, -, he, h'⟩ | ⟨-, -, hb, -, h'⟩
    · refine .inl ⟨e, ?_, ht ▸ h'⟩
      rcases he with rfl | rfl | rfl <;> decide
    · exact .inr ⟨hb, ht ▸ h'⟩
  cases i with
  | msfwd | msinv =>
    rcases chk _ _ (Host.Outcome.next.inj h) with h' | ⟨hb, rfl⟩
    · exact .inl h'
    · obtain ⟨-, -, h0, h1⟩ := (Operands.twoByTwo_inBounds _ _ _ _ _).1 hb
      exact .inr (.writesRR _ _ (by simpa [midWords, leftWords] using h0) (by simpa [sideWords, rightWords] using h1))
  | frame | wina | wins | mdct | dequant | imdct | ola =>
    rcases chk _ _ (Host.Outcome.next.inj h) with h' | ⟨hb, rfl⟩
    · exact .inl h'
    · obtain ⟨-, h0⟩ := (Operands.oneByOne_inBounds _ _ _).1 hb
      exact .inr (.writesR _ _
        (by simpa [frameWords, windowWords, mdctWords, dequantWords, imdctWords, olaWords] using h0))
  | pcmout =>
    rcases chk _ _ (Host.Outcome.next.inj h) with h' | ⟨hb, rfl⟩
    · exact .inl h'
    · obtain ⟨-, h0⟩ := (Operands.oneByOne_inBounds _ _ _).1 hb
      have := EffectOf.writesQ (pcmWords nm s) false (by simpa [pcmWords] using h0)
      rw [State.setUnderrun_false] at this
      exact .inr this
  | unpack =>
    rcases chk _ _ (Host.Outcome.next.inj h) with h' | ⟨hb, rfl⟩
    · exact .inl h'
    · obtain ⟨-, h0⟩ := (Operands.oneByOne_inBounds _ _ _).1 hb
      have len : ∀ src slen count t, (readElements src slen count t).1.length = count := by
        intro src slen count
        induction count with
        | zero => intro t; rfl
        | succ count ih => intro t; simp [readElements, ih]
      exact .inr (.writesQ _ _ (by simpa [unpackedInts, unpackInts, len] using h0))
  | quant =>
    rcases chk _ _ (Host.Outcome.next.inj h) with h' | ⟨hb, rfl⟩
    · exact .inl h'
    · obtain ⟨-, h0⟩ := (Operands.oneByOne_inBounds _ _ _).1 hb
      by_cases hr : (quantInts nm s).all fitsWord
      · rw [if_pos hr]
        have := EffectOf.writesQ (quantInts nm s) false (by simpa [quantInts] using h0)
        rw [State.setUnderrun_false] at this
        exact .inr this
      · rw [if_neg hr]
        exact .inl ⟨.range, by decide, rfl⟩
  | pack =>
    rcases chk _ _ (Host.Outcome.next.inj h) with h' | ⟨-, rfl⟩
    · exact .inl h'
    · by_cases hr : (region .bmem s.dst0 (packedBytes s).length).InBounds p
      · rw [if_pos hr]
        exact .inr (.writesB _ _ _ hr)
      · rw [if_neg hr]
        exact .inl ⟨.bounds, by decide, rfl⟩

/-- Everything a command of the host's `exec` can do. -/
theorem exec_cases (i : Instr) (s t : State) (h : exec i s = .next t) :
    (∃ e, e ≠ .illegal ∧ t = s.raise e) ∨ EffectOf Config.params s t :=
  execOn_cases Config.params binary64 i s t (exec_eq_execOn i s ▸ h)

/-! ### Steps -/

/-- The core's turn: idle, an illegal word, or a command (R36). -/
theorem coreTurnWith_idle (run : Instr → State α → Host.Outcome (State α) Fault Refusal) (s : State α)
    (h : s.busy = false) : coreTurnWith run s = .next s := by simp [coreTurnWith, h]

theorem coreTurnWith_illegal (run : Instr → State α → Host.Outcome (State α) Fault Refusal) (s : State α) (e : Illegal)
    (h : s.busy = true) (hd : decode s.cmd = .error e) : coreTurnWith run s = .next (s.raise .illegal) := by
  simp [coreTurnWith, h, hd]

theorem coreTurnWith_command (run : Instr → State α → Host.Outcome (State α) Fault Refusal) (s : State α) (i : Instr)
    (h : s.busy = true) (hd : decode s.cmd = .ok i) : coreTurnWith run s = run i s := by
  simp [coreTurnWith, h, hd]

/-- Everything the core's turn can do. -/
theorem coreTurnWith_cases (run : Instr → State α → Host.Outcome (State α) Fault Refusal) (s t : State α)
    (h : coreTurnWith run s = .next t) :
    (s.busy = false ∧ t = s) ∨ (s.busy = true ∧ t = s.raise .illegal) ∨
    (s.busy = true ∧ ∃ i, decode s.cmd = .ok i ∧ run i s = .next t) := by
  cases hb : s.busy with
  | false => exact .inl ⟨rfl, Host.Outcome.next.inj (h.symm.trans (coreTurnWith_idle run s hb))⟩
  | true =>
    cases hd : decode s.cmd with
    | error e => exact .inr (.inl ⟨rfl, Host.Outcome.next.inj (h.symm.trans (coreTurnWith_illegal run s e hb hd))⟩)
    | ok i => exact .inr (.inr ⟨rfl, i, rfl, (coreTurnWith_command run s i hb hd).symm.trans h⟩)

theorem coreTurn_idle (s : State) (h : s.busy = false) : coreTurn s = .next s := coreTurnWith_idle exec s h

theorem coreTurn_illegal (s : State) (e : Illegal) (h : s.busy = true) (hd : decode s.cmd = .error e) :
    coreTurn s = .next (s.raise .illegal) := coreTurnWith_illegal exec s e h hd

theorem coreTurn_command (s : State) (i : Instr) (h : s.busy = true) (hd : decode s.cmd = .ok i) :
    coreTurn s = exec i s := coreTurnWith_command exec s i h hd

theorem coreTurn_cases (s t : State) (h : coreTurn s = .next t) :
    (s.busy = false ∧ t = s) ∨ (s.busy = true ∧ t = s.raise .illegal) ∨
    (s.busy = true ∧ ∃ i, decode s.cmd = .ok i ∧ exec i s = .next t) := coreTurnWith_cases exec s t h

/-- Whose turn it is (R17): the four shapes of a step. -/
theorem step_nil (s : State) (h : s.turns = []) : step s = coreTurn s := by
  simp only [step, stepWith, h, coreTurn]

theorem step_core (s : State) (rest : List Turn) (h : s.turns = .core :: rest) :
    step s = coreTurn { s with turns := rest } := by simp only [step, stepWith, h, coreTurn]

theorem step_host (s : State) (t : Txn) (rest : List Turn) (h : s.turns = .host t :: rest) :
    step s = .next (State.transact Config.params t { s with turns := rest }) := by simp only [step, stepWith, h]

theorem step_hardwareReset (s : State) (rest : List Turn) (h : s.turns = .hardwareReset :: rest) :
    step s = .next (State.hardwareReset Config.params { s with turns := rest }) := by
  simp only [step, stepWith, h]

/-- The host's `step` is `stepOn` at R7's default parameters. -/
theorem step_eq_stepOn (s : State) : step s = stepOn Config.params binary64 s := by
  have h : (exec : Instr → State → Host.Outcome State Fault Refusal) = execOn Config.params binary64 :=
    funext fun i => funext fun s => exec_eq_execOn i s
  rw [step, stepOn, h]

/-! ### Runs -/

/-- A run whose first step answers a next state goes on from it. -/
theorem run_of_core_next (M : Host.Core) {s t : M.State} (k : Nat) (h : M.step s = .next t) :
    M.run (k + 1) s = M.run k t := by
  rw [Host.Core.run.eq_def]
  simp only [h]

/-- A run of the block whose first step answers a next state goes on from it. -/
theorem run_of_next {s t : State} (k : Nat) (h : step s = .next t) :
    Host.Core.run core (k + 1) s = Host.Core.run core k t := run_of_core_next core k h

end Sys2Proof.Machine
end

