-- ==== Sys2Proof/Laws/HardwareReset.lean ====
section
/-!
SUPPORT. What a hardware reset leaves of the memories (10_state.md R32, R33; U4 of 93_implementation_defined.md), said once.
-/

namespace Sys2Proof.Machine

variable {α : Type}

theorem Region.length_values {β : Type} (p : Params) (r : Region) (f : Nat → β) :
    (r.values p f).length = r.unitsIn p := by simp [Region.values]

/-- A region made unspecified stays inside its space. -/
theorem Region.values_inBounds {β : Type} (p : Params) (r : Region) (f : Nat → β) :
    (r.values p f).length = 0 ∨ r.base + (r.values p f).length ≤ spaceUnits p r.space := by
  rw [Region.length_values, Region.unitsIn]
  omega

/-- A read after a region of a memory has been overwritten with `f`: `f` inside it, what was there elsewhere. -/
theorem Region.read_values {β : Type} (p : Params) (r : Region) (f : Nat → β) (m : List (Nat × β)) (a : Nat) :
    Memory.read (Memory.writeRegion r.base (r.values p f) m) a =
      if r.base ≤ a ∧ a < r.base + r.unitsIn p then some (f a) else Memory.read m a := by
  rw [Memory.read_writeRegion, Region.length_values]
  split
  · rename_i h
    rw [Region.values, getElem?_tabulate, if_pos (by omega), Nat.add_sub_cancel' h.1]
  · rfl

/-- A read of RMEM after a region has been made unspecified. -/
theorem State.read_unspecify_rmem [Inhabited α] (p : Params) (r : Region) (s : State α) (a : Nat) :
    Memory.read (s.unspecify p r).rmem a =
      if r.space = .rmem ∧ r.base ≤ a ∧ a < r.base + r.unitsIn p then some (Config.abandonedReal s.draws a)
      else Memory.read s.rmem a := by
  obtain ⟨space, base, len⟩ := r
  cases space with
  | rmem => simp only [State.unspecify, Region.read_values p ⟨.rmem, base, len⟩, true_and]
  | _ => simp [State.unspecify]

/-- A read of QMEM after a region has been made unspecified. -/
theorem State.read_unspecify_qmem [Inhabited α] (p : Params) (r : Region) (s : State α) (a : Nat) :
    Memory.read (s.unspecify p r).qmem a =
      if r.space = .qmem ∧ r.base ≤ a ∧ a < r.base + r.unitsIn p then some (Config.abandonedInt s.draws a)
      else Memory.read s.qmem a := by
  obtain ⟨space, base, len⟩ := r
  cases space with
  | qmem => simp only [State.unspecify, Region.read_values p ⟨.qmem, base, len⟩, true_and]
  | _ => simp [State.unspecify]

/-- A read of BMEM after a region has been made unspecified. -/
theorem State.read_unspecify_bmem [Inhabited α] (p : Params) (r : Region) (s : State α) (a : Nat) :
    Memory.read (s.unspecify p r).bmem a =
      if r.space = .bmem ∧ r.base ≤ a ∧ a < r.base + r.unitsIn p then some (Config.abandonedByte s.draws a)
      else Memory.read s.bmem a := by
  obtain ⟨space, base, len⟩ := r
  cases space with
  | bmem => simp only [State.unspecify, Region.read_values p ⟨.bmem, base, len⟩, true_and]
  | _ => simp [State.unspecify]

/-- Every memory keeps its canonical form and stays inside its space. -/
theorem State.unspecify_sound [Inhabited α] (p : Params) (r : Region) (s : State α)
    (h : (Memory.wf s.rmem ∧ Memory.within p.rwords s.rmem) ∧ (Memory.wf s.qmem ∧ Memory.within p.qwords s.qmem) ∧
      (Memory.wf s.bmem ∧ Memory.within p.bbytes s.bmem)) :
    (Memory.wf (s.unspecify p r).rmem ∧ Memory.within p.rwords (s.unspecify p r).rmem) ∧
      (Memory.wf (s.unspecify p r).qmem ∧ Memory.within p.qwords (s.unspecify p r).qmem) ∧
      (Memory.wf (s.unspecify p r).bmem ∧ Memory.within p.bbytes (s.unspecify p r).bmem) := by
  obtain ⟨⟨hr, hr'⟩, ⟨hq, hq'⟩, hb, hb'⟩ := h
  obtain ⟨space, base, len⟩ := r
  have fits := fun (β : Type) (f : Nat → β) => Region.values_inBounds p ⟨space, base, len⟩ f
  cases space with
  | rmem => exact ⟨⟨Memory.wf_writeRegion _ _ _ hr, Memory.within_writeRegion _ _ _ _ hr' (fits _ _)⟩, ⟨hq, hq'⟩, hb, hb'⟩
  | qmem => exact ⟨⟨hr, hr'⟩, ⟨Memory.wf_writeRegion _ _ _ hq, Memory.within_writeRegion _ _ _ _ hq' (fits _ _)⟩, hb, hb'⟩
  | bmem => exact ⟨⟨hr, hr'⟩, ⟨hq, hq'⟩, Memory.wf_writeRegion _ _ _ hb, Memory.within_writeRegion _ _ _ _ hb' (fits _ _)⟩

theorem State.foldl_unspecify_sound [Inhabited α] (p : Params) (rs : List Region) (s : State α)
    (h : (Memory.wf s.rmem ∧ Memory.within p.rwords s.rmem) ∧ (Memory.wf s.qmem ∧ Memory.within p.qwords s.qmem) ∧
      (Memory.wf s.bmem ∧ Memory.within p.bbytes s.bmem)) :
    let t := rs.foldl (fun u r => u.unspecify p r) s
    (Memory.wf t.rmem ∧ Memory.within p.rwords t.rmem) ∧ (Memory.wf t.qmem ∧ Memory.within p.qwords t.qmem) ∧
      (Memory.wf t.bmem ∧ Memory.within p.bbytes t.bmem) := by
  induction rs generalizing s with
  | nil => exact h
  | cons r rs ih => exact ih _ (State.unspecify_sound p r s h)

/-- A hardware reset keeps every memory in its canonical form and inside its space. -/
theorem State.hardwareReset_sound [Inhabited α] (p : Params) (s : State α)
    (h : (Memory.wf s.rmem ∧ Memory.within p.rwords s.rmem) ∧ (Memory.wf s.qmem ∧ Memory.within p.qwords s.qmem) ∧
      (Memory.wf s.bmem ∧ Memory.within p.bbytes s.bmem)) :
    (Memory.wf (s.hardwareReset p).rmem ∧ Memory.within p.rwords (s.hardwareReset p).rmem) ∧
      (Memory.wf (s.hardwareReset p).qmem ∧ Memory.within p.qwords (s.hardwareReset p).qmem) ∧
      (Memory.wf (s.hardwareReset p).bmem ∧ Memory.within p.bbytes (s.hardwareReset p).bmem) := by
  cases hb : s.busy with
  | true =>
    rw [State.hardwareReset_pending s p hb]
    exact State.foldl_unspecify_sound p _ s h
  | false =>
    rw [State.hardwareReset_idle s p hb]
    exact ⟨⟨Memory.wf_nil, Memory.within_nil _⟩, ⟨Memory.wf_nil, Memory.within_nil _⟩, Memory.wf_nil, Memory.within_nil _⟩

end Sys2Proof.Machine
end

