-- ==== Sys2Proof/Laws/HostPort.lean ====
section
/-!
SUPPORT. What a host transaction can do, said once (20_memory.md R38).
-/

namespace Sys2Proof.Machine

variable {α : Type}

theorem State.accept_idle (w : Word) (s : State α) (hb : s.busy = false) (hf : s.fault = false) :
    s.accept w = { s with cmd := w, busy := true, done := false, trunc := false, underrun := false } := by
  simp [State.accept, hb, hf]

theorem State.accept_ignored (w : Word) (s : State α) (h : s.busy = true ∨ s.fault = true) : s.accept w = s := by
  rcases h with h | h <;> simp [State.accept, h]

/-- What a CsrWrite can do: nothing, a soft reset, an acceptance, or a new value in one of seven registers. -/
inductive CsrWriteOf (s : State α) : State α → Prop where
  | ignored : CsrWriteOf s s
  | softReset (h : s.busy = false) : CsrWriteOf s s.softReset
  | accepted (w : Word) (h : s.busy = false) (h' : s.fault = false) :
      CsrWriteOf s { s with cmd := w, busy := true, done := false, trunc := false, underrun := false }
  | registers (cfgN cfgM src0 src1 dst0 dst1 cnt : Word) (h : s.busy = false) :
      CsrWriteOf s { s with cfgN := cfgN, cfgM := cfgM, src0 := src0, src1 := src1, dst0 := dst0, dst1 := dst1, cnt := cnt }

theorem State.csrWrite_cases (s : State α) (idx v : Word) : CsrWriteOf s (s.csrWrite idx v) := by
  rw [State.csrWrite]
  by_cases hb : s.busy = true
  · rw [if_pos hb]; exact .ignored
  · rw [if_neg hb]
    have hb' : s.busy = false := by simpa using hb
    split
    · split
      · exact .softReset hb'
      · exact .ignored
    · by_cases hf : s.fault = true
      · rw [State.accept_ignored _ _ (.inr hf)]; exact .ignored
      · have hf' : s.fault = false := by simpa using hf
        rw [State.accept_idle _ _ hb' hf']; exact .accepted _ hb' hf'
    · exact .registers v s.cfgM s.src0 s.src1 s.dst0 s.dst1 s.cnt hb'
    · exact .registers s.cfgN v s.src0 s.src1 s.dst0 s.dst1 s.cnt hb'
    · exact .registers s.cfgN s.cfgM v s.src1 s.dst0 s.dst1 s.cnt hb'
    · exact .registers s.cfgN s.cfgM s.src0 v s.dst0 s.dst1 s.cnt hb'
    · exact .registers s.cfgN s.cfgM s.src0 s.src1 v s.dst1 s.cnt hb'
    · exact .registers s.cfgN s.cfgM s.src0 s.src1 s.dst0 v s.cnt hb'
    · exact .registers s.cfgN s.cfgM s.src0 s.src1 s.dst0 s.dst1 v hb'
    · exact .ignored

/-- What a transaction can do: a read gives a reply and may count a draw, a CsrWrite as above, and a BufWrite writes one
unit of one memory, in bounds, or nothing. -/
inductive TransactOf (p : Params) (s : State α) : State α → Prop where
  | read (r : Reply α) (draws : Nat) : TransactOf p s { s with replies := r :: s.replies, draws := draws }
  | csr (t : State α) (h : CsrWriteOf s t) : TransactOf p s t
  | writeR (a : Word) (v : α) (hb : s.busy = false) (h : a.toNat < p.rwords) : TransactOf p s (s.writeR a [v])
  | writeQ (a : Word) (v : Int) (hb : s.busy = false) (h : a.toNat < p.qwords) : TransactOf p s (s.writeQ a [v])
  | writeB (a : Word) (v : Byte) (hb : s.busy = false) (h : a.toNat < p.bbytes) : TransactOf p s (s.writeB a [v])

theorem State.transact_cases [Inhabited α] (p : Params) (t : Txn α) (s : State α) : TransactOf p s (s.transact p t) := by
  cases t with
  | csrRead idx => exact .read _ s.draws
  | csrWrite idx v => exact .csr _ (s.csrWrite_cases idx v)
  | bufRead space a => exact .read _ _
  | bufWriteR a v =>
    by_cases h : s.bufWritable p .rmem a
    · simp only [State.transact, if_pos h]
      simp only [State.bufWritable, Bool.and_eq_true, Bool.not_eq_true', decide_eq_true_eq] at h
      exact .writeR a v h.1 h.2
    · simp only [State.transact, if_neg h]; exact .csr _ .ignored
  | bufWriteQ a v =>
    by_cases h : s.bufWritable p .qmem a
    · simp only [State.transact, if_pos h]
      simp only [State.bufWritable, Bool.and_eq_true, Bool.not_eq_true', decide_eq_true_eq] at h
      exact .writeQ a v.toInt h.1 h.2
    · simp only [State.transact, if_neg h]; exact .csr _ .ignored
  | bufWriteB a v =>
    by_cases h : s.bufWritable p .bmem a
    · simp only [State.transact, if_pos h]
      simp only [State.bufWritable, Bool.and_eq_true, Bool.not_eq_true', decide_eq_true_eq] at h
      exact .writeB a v h.1 h.2
    · simp only [State.transact, if_neg h]; exact .csr _ .ignored

end Sys2Proof.Machine
end

