-- ==== Sys2Proof/Laws/PerInstr.lean ====
section
/-!
SUPPORT. The family of statements made of every command as syntax, one lemma per constructor.
-/

namespace Sys2Proof.Laws.CommandWord

/-- The command word of a command has ZERO = 0 (R57) and an operation code from 0x01 to 0x0D (R59). -/
def Statement (i : Instr) : Prop :=
  zeroOf (encode i) = 0 ∧ opcOf (encode i) = opcodeOf i ∧ 0x01 ≤ (opcodeOf i).toNat ∧ (opcodeOf i).toNat ≤ 0x0D

theorem msfwd : Statement .msfwd := by unfold Statement; decide
theorem frame : Statement .frame := by unfold Statement; decide
theorem wina : Statement .wina := by unfold Statement; decide
theorem mdct : Statement .mdct := by unfold Statement; decide
theorem quant : Statement .quant := by unfold Statement; decide
theorem pack : Statement .pack := by unfold Statement; decide
theorem unpack : Statement .unpack := by unfold Statement; decide
theorem dequant : Statement .dequant := by unfold Statement; decide
theorem imdct : Statement .imdct := by unfold Statement; decide
theorem wins : Statement .wins := by unfold Statement; decide
theorem ola : Statement .ola := by unfold Statement; decide
theorem msinv : Statement .msinv := by unfold Statement; decide
theorem pcmout : Statement .pcmout := by unfold Statement; decide

end Sys2Proof.Laws.CommandWord
end

