-- ==== Sys2Proof/Laws/Regions.lean ====
section
/-!
SUPPORT. The statements' own terms for configuration, bounds and overlap against those of the common checks
(10_state.md R22, 20_memory.md R47, R48).
-/

namespace Sys2Proof.Machine

/-- A valid pair in CFG_N and CFG_M passes the configuration check and gives N, M and K. -/
theorem configuredAs_valid {s : State} {n m : Nat} (h : ConfiguredAs s n m) :
    ConfigValid Config.params s ∧ s.n = n ∧ s.m = m ∧ s.k = n - m := by
  obtain ⟨h1, h2, h3, h4, h5⟩ := h
  exact ⟨⟨by omega, by omega, by omega, by omega⟩, by simp [State.n, h1], by simp [State.m, h2],
    by simp [State.k, State.n, State.m, h1, h2]⟩

/-- `Fits` is the bounds check. -/
theorem region_inBounds_iff (space : Space) (base : Word) (len : Nat) :
    (region space base len).InBounds Config.params ↔ Fits base len (spaceUnits Config.params space) := Iff.rfl

/-- `Apart` is the absence of an overlap, in one space. -/
theorem not_overlaps_iff (space : Space) (a b : Word) (la lb : Nat) :
    ¬ (region space a la).Overlaps (region space b lb) ↔ Apart a la b lb := by
  simp only [Region.Overlaps, region, Apart, true_and]
  omega

/-- A command with one source and one destination runs its effect where both fit and are apart. -/
theorem checked_oneByOne {s effect : State} {n m : Nat} (hc : ConfiguredAs s n m) (sa sb : Space) (a b : Word)
    (la lb : Nat) (ha : Fits a la (spaceUnits Config.params sa)) (hb : Fits b lb (spaceUnits Config.params sb))
    (ho : sa ≠ sb ∨ Apart a la b lb) :
    s.checked Config.params (.oneByOne (region sa a la) (region sb b lb)) effect = effect := by
  refine State.checked_pass (commonFault_none (configuredAs_valid hc).1 ?_ ?_)
  · exact (Operands.oneByOne_inBounds _ _ _).2 ⟨ha, hb⟩
  · rw [Operands.oneByOne_overlap]
    rcases ho with h | h
    · exact Region.not_overlaps_of_space h
    · by_cases hs : sa = sb
      · subst hs
        exact (not_overlaps_iff _ _ _ _ _).2 h
      · exact Region.not_overlaps_of_space hs

end Sys2Proof.Machine
end

