-- ==== Sys2Proof/Laws/Stages.lean ====
section
/-!
SUPPORT. One lemma per stage function: its value at entry `j` of block `b`, as the rules of 41_frame_window.md to
44_overlap_add.md write it; and the operations of the reference instance.
-/

namespace Sys2Proof

variable {α : Type} (nm : Numerics α)

theorem block_div {n k : Nat} (b : Nat) (h : k < n) : (b * n + k) / n = b := by
  rw [Nat.mul_comm, Nat.mul_add_div (by omega), Nat.div_eq_of_lt h, Nat.add_zero]

theorem block_mod {n k : Nat} (b : Nat) (h : k < n) : (b * n + k) % n = k := by
  rw [Nat.mul_comm, Nat.mul_add_mod, Nat.mod_eq_of_lt h]

/-- An index below `c` blocks of `n` is an entry of one of them. -/
theorem exists_block {n c i : Nat} (h : i < c * n) : ∃ b k, b < c ∧ k < n ∧ i = b * n + k := by
  have hn : 0 < n := by
    rcases Nat.eq_zero_or_pos n with rfl | hn
    · simp at h
    · exact hn
  exact ⟨i / n, i % n, Nat.div_lt_of_lt_mul (by rwa [Nat.mul_comm] at h), Nat.mod_lt _ hn,
    (Nat.div_add_mod' i n).symm⟩

/-- An entry of one of `c` blocks is an index below them. -/
theorem block_lt {n c b k : Nat} (hb : b < c) (hk : k < n) : b * n + k < c * n :=
  calc b * n + k < b * n + n := by omega
    _ = (b + 1) * n := by rw [Nat.succ_mul]
    _ ≤ c * n := Nat.mul_le_mul_right _ hb

theorem frameOf_block (n samples : Nat) (x : Nat → α) (b : Nat) {j : Nat} (h : j < 2 * n) :
    frameOf nm n samples x (b * (2 * n) + j) =
      if n ≤ b * n + j ∧ b * n + j < n + samples then x (b * n + j - n) else nm.zero := by
  simp only [frameOf, block_div b h, block_mod b h]

theorem windowOf_block (n : Nat) (x : Nat → α) (b : Nat) {j : Nat} (h : j < 2 * n) :
    windowOf nm n x (b * (2 * n) + j) = nm.mul (x (b * (2 * n) + j)) (nm.win n j) := by
  simp only [windowOf, block_mod b h]

theorem mdctOf_block (n : Nat) (x : Nat → α) (b : Nat) {k : Nat} (h : k < n) :
    mdctOf nm n x (b * n + k) = nm.sum (fun j => nm.mul (x (b * (2 * n) + j)) (nm.ker n j k)) (2 * n) := by
  simp only [mdctOf, block_div b h, block_mod b h]

theorem imdctRawOf_block (n : Nat) (x : Nat → α) (b : Nat) {j : Nat} (h : j < 2 * n) :
    imdctRawOf nm n x (b * (2 * n) + j) =
      nm.mul (nm.divNat (nm.ofInt 2) n) (nm.sum (fun k => nm.mul (x (b * n + k)) (nm.ker n j k)) n) := by
  simp only [imdctRawOf, block_div b h, block_mod b h]

theorem quantOf_block (n k : Nat) (x : Nat → α) (b : Nat) {j : Nat} (h : j < k) :
    quantOf nm n k x (b * k + j) = nm.rnd (x (b * n + j)) := by
  simp only [quantOf, block_div b h, block_mod b h]

theorem dequantOf_block (n k : Nat) (q : Nat → Int) (b : Nat) {j : Nat} (h : j < n) :
    dequantOf nm n k q (b * n + j) = if j < k then nm.ofInt (q (b * k + j)) else nm.zero := by
  simp only [dequantOf, block_div b h, block_mod b h]

theorem olaOf_block (n : Nat) (x : Nat → α) (i : Nat) {j : Nat} (h : j < n) :
    olaOf nm n x (i * n + j) = nm.add (x (i * (2 * n) + n + j)) (x ((i + 1) * (2 * n) + j)) := by
  simp only [olaOf, block_div i h, block_mod i h]

/-- A sum depends on its terms alone. -/
theorem Numerics.sum_congr {f g : Nat → α} {n : Nat} (h : ∀ i < n, f i = g i) : nm.sum f n = nm.sum g n := by
  induction n with
  | zero => rfl
  | succ n ih => rw [Numerics.sum, Numerics.sum, ih (fun i hi => h i (by omega)), h n (by omega)]

/-- The sum of R10 (b) as a fold over the indices in ascending order. -/
theorem Numerics.sum_eq_foldl (f : Nat → α) (n : Nat) :
    nm.sum f n = (List.range n).foldl (fun acc i => nm.add acc (f i)) nm.zero := by
  induction n with
  | zero => rfl
  | succ n ih => rw [Numerics.sum, List.range_succ, List.foldl_append, ← ih]; rfl

/-! ### The reference instance -/

@[simp] theorem reference_zero : reference.zero = 0 := rfl
@[simp] theorem reference_add (a b : ℝ) : reference.add a b = a + b := rfl
@[simp] theorem reference_sub (a b : ℝ) : reference.sub a b = a - b := rfl
@[simp] theorem reference_mul (a b : ℝ) : reference.mul a b = a * b := rfl
@[simp] theorem reference_divNat (a : ℝ) (d : Nat) : reference.divNat a d = a / d := rfl
@[simp] theorem reference_ofInt (z : Int) : reference.ofInt z = z := rfl

@[simp] theorem reference_sum (f : Nat → ℝ) (n : Nat) : reference.sum f n = ∑ i ∈ Finset.range n, f i := by
  induction n with
  | zero => rfl
  | succ n ih => rw [Numerics.sum, ih, Finset.sum_range_succ]; rfl

end Sys2Proof
end

