-- ==== Sys2Proof/Laws/Stream.lean ====
section
/-!
SUPPORT. The small lemmas of the entropy code's definitions: lengths of fields, elements, streams and blocks
(30_encoding.md R64 to R66, 45_entropy.md R100).
-/

namespace Sys2Proof

@[simp] theorem length_fieldBits (w f : Nat) : (fieldBits w f).length = w := by simp [fieldBits]

theorem getElem?_fieldBits (w f i : Nat) :
    (fieldBits w f)[i]? = if i < w then some (f.testBit (w - 1 - i)) else none := by
  by_cases h : i < w <;> simp [fieldBits, h]

@[simp] theorem Element.length_bits (e : Element) : e.bits.length = 6 + e.nb := by simp [Element.bits]; omega

@[simp] theorem length_bytesOfBits (l : Nat) (bits : List Bool) : (bytesOfBits l bits).length = l := by
  induction l generalizing bits with
  | zero => rfl
  | succ l ih => simp [bytesOfBits, ih]

@[simp] theorem length_packBytes (vs : List Int) : (packBytes vs).length = ((streamBits vs).length + 7) / 8 := by
  simp [packBytes]

@[simp] theorem streamBits_nil : streamBits [] = [] := rfl

@[simp] theorem streamBits_cons (v : Int) (vs : List Int) :
    streamBits (v :: vs) = (encodeElement v).bits ++ streamBits vs := rfl

@[simp] theorem length_readElements (src : Nat → Byte) (slen count t : Nat) :
    (readElements src slen count t).1.length = count := by
  induction count generalizing t with
  | zero => rfl
  | succ count ih => simp [readElements, ih]

@[simp] theorem length_unpackInts (src : Nat → Byte) (slen count : Nat) :
    (unpackInts src slen count).length = count := by simp [unpackInts]

/-- A field of `w` bits is a number below `2^w`. -/
theorem readBits_lt (src : Nat → Byte) (slen t w : Nat) : readBits src slen t w < 2 ^ w := by
  induction w with
  | zero => simp [readBits]
  | succ w ih =>
    have : (streamBit src slen (t + w)).toNat ≤ 1 := Bool.toNat_le _
    rw [readBits, Nat.pow_succ]
    omega

/-- Every element the decoder reads is a well-formed one (R64). -/
theorem readElement_wf (src : Nat → Byte) (slen t : Nat) :
    (readElement src slen t).nb < 2 ^ 5 ∧ (readElement src slen t).mag < 2 ^ (readElement src slen t).nb :=
  ⟨readBits_lt _ _ _ _, readBits_lt _ _ _ _⟩

end Sys2Proof
end

