-- ==== Sys2Proof/Tests/Slice0.lean ====
section
/-!
SUPPORT. The model's own tests. Expected values are the spec's (95_test_vectors.md, the table named in each comment) or
hand calculations from its rules; patterns of binary64 values were computed outside the model. Then, for every statement
of the obligations that has hypotheses, one theorem with a concrete state and operands that meet them.
-/

open Sys2Proof Sys2Proof.Machine

namespace Sys2Proof.Tests

/-! ### Helpers -/

/-- Words of RMEM holding integers. -/
def reals (base : Nat) (vs : List Int) : List (Nat × F64) := Memory.cells base (vs.map F64.ofInt)

/-- Words of QMEM. -/
def ints (base : Nat) (vs : List Int) : List (Nat × Word) := Memory.cells base (vs.map (BitVec.ofInt 32))

/-- A value by its interchange pattern. -/
def pattern (w : BitVec 64) : F64 := (F64.ofBits w).getD F64.zero

/-- A command pending with N = 2, M = 0, CNT = 1, all sources at 0, DST0 = 100, DST1 = 200. -/
def demo : State :=
  { State.reset with
    cfgN := 2, busy := true, cnt := 1, dst0 := 100, dst1 := 200, cmd := 1,
    rmem := reals 0 [1, 2, 3, 4, 10, 20, 30, 40], qmem := ints 0 [5, -6], bmem := [(0, 0x21), (1, 0x40)] }

/-- The next state an outcome holds, if it is one. -/
def nextOf : Outcome → Option State
  | .next t => some t
  | .fault _ => none
  | .refused _ => none

/-- The state a command leaves. -/
def after (i : Instr) (s : State) : State := (nextOf (exec i s)).getD s

/-- The words of RMEM from `base` on. -/
def realsAt (s : State) (base n : Nat) : List (Option F64) := tabulate n (fun i => Memory.read s.rmem (base + i))

/-- The words of QMEM from `base` on, signed. -/
def intsAt (s : State) (base n : Nat) : List (Option Int) :=
  tabulate n (fun i => (Memory.read s.qmem (base + i)).map BitVec.toInt)

/-- The words that hold these integers. -/
def asReals (vs : List Int) : List (Option F64) := vs.map (fun v => some (F64.ofInt v))

/-! ### Decoding: each word of R59 written out bit by bit -/

theorem test_decode_msfwd : decode 0b00000000000000000000000000000001 = .ok .msfwd := by decide
theorem test_decode_frame : decode 0b00000000000000000000000000000010 = .ok .frame := by decide
theorem test_decode_wina : decode 0b00000000000000000000000000000011 = .ok .wina := by decide
theorem test_decode_mdct : decode 0b00000000000000000000000000000100 = .ok .mdct := by decide
theorem test_decode_quant : decode 0b00000000000000000000000000000101 = .ok .quant := by decide
theorem test_decode_pack : decode 0b00000000000000000000000000000110 = .ok .pack := by decide
theorem test_decode_unpack : decode 0b00000000000000000000000000000111 = .ok .unpack := by decide
theorem test_decode_dequant : decode 0b00000000000000000000000000001000 = .ok .dequant := by decide
theorem test_decode_imdct : decode 0b00000000000000000000000000001001 = .ok .imdct := by decide
theorem test_decode_wins : decode 0b00000000000000000000000000001010 = .ok .wins := by decide
theorem test_decode_ola : decode 0b00000000000000000000000000001011 = .ok .ola := by decide
theorem test_decode_msinv : decode 0b00000000000000000000000000001100 = .ok .msinv := by decide
theorem test_decode_pcmout : decode 0b00000000000000000000000000001101 = .ok .pcmout := by decide

/-- The illegal words of T-FAULT, each refused by name. -/
theorem test_decode_illegal :
    decode 0x00000000 = .error (.reservedOpcode 0x00) ∧ decode 0x0000000E = .error (.reservedOpcode 0x0E) ∧
    decode 0x000000FF = .error (.reservedOpcode 0xFF) ∧ decode 0x00000104 = .error .nonzeroHighBits ∧
    decode 0x80000004 = .error .nonzeroHighBits ∧ decode 0x00010001 = .error .nonzeroHighBits := by decide

/-- The host's two entry points: the row of MDCT decodes, and the very next step after reset runs it (N = 0: E_CONFIG). -/
theorem test_table_word : decodeTableWord 32 4 = some .mdct ∧ decodeTableWord 32 0 = none ∧
    (nextOf (step (State.reset.withFetchWord 32 4))).map (fun t => (t.errcode, t.cmd, t.busy)) = some (2, 4, false) := by
  decide +kernel

/-! ### Well-formedness: a good and an ill-formed term for each check -/

theorem test_wf_element : (⟨31, true, 2 ^ 31 - 1⟩ : Element).wf ∧ (⟨0, true, 0⟩ : Element).wf := by decide
theorem test_wf_element_width : ¬ (⟨32, false, 0⟩ : Element).wf := by decide
theorem test_wf_element_magnitude : ¬ (⟨3, false, 8⟩ : Element).wf := by decide
theorem test_wf_script_op : (ScriptLine.op .pack 0 0 1 : ScriptLine).wf ∧ ¬ (ScriptLine.op .msfwd 0 0 1 : ScriptLine).wf ∧
    ¬ (ScriptLine.op .msinv 0 0 1 : ScriptLine).wf ∧ ¬ (ScriptLine.op .unpack 0 0 1 : ScriptLine).wf := by decide
theorem test_wf_script_config : (ScriptLine.config 4096 (-1) : ScriptLine).wf ∧ ¬ (ScriptLine.config (2 ^ 32) 0 : ScriptLine).wf ∧
    ¬ (ScriptLine.config (-2 ^ 31 - 1) 0 : ScriptLine).wf ∧ ¬ (ScriptLine.config 1 (2 ^ 32) : ScriptLine).wf ∧
    ¬ (ScriptLine.config 1 (-2 ^ 31 - 1) : ScriptLine).wf := by decide
theorem test_wf_params : Config.params.wf ∧ (Params.mk 1 2 1 1).wf ∧ ¬ (Params.mk 0 2 1 1).wf ∧
    ¬ (Params.mk 2 3 2 1).wf ∧ ¬ (Params.mk 2 4 1 1).wf := by decide +kernel
theorem test_wf_params_sizes : ¬ (Params.mk 1 2 1 0).wf ∧ ¬ (Params.mk 1 (2 ^ 32 + 1) 1 1).wf ∧
    ¬ (Params.mk 1 2 (2 ^ 32 + 1) 1).wf ∧ ¬ (Params.mk 1 2 1 (2 ^ 32 + 1)).wf := by decide +kernel

/-! ### Primitives (T-PRIM) and binary64 arithmetic -/

theorem test_rnd : [0x3FE0000000000000, 0xBFE0000000000000, 0x4004000000000000, 0xC004000000000000, 0x3FDF5C28F5C28F5C,
    0xC00C000000000000, 0x8000000000000000].map (fun w => (pattern w).rnd) = [1, -1, 3, -3, 0, -4, 0] := by decide +kernel

/-- 1e-11, the value below 1e-10, 1e-10 itself and 2e-10. -/
theorem test_snap : [0x3DA5FD7FE1796495, 0x3DDB7CDFD9D7BDBA, 0x3DDB7CDFD9D7BDBB, 0x3DEB7CDFD9D7BDBB].map
    (fun w => (pattern w).snap) =
    [F64.zero, F64.zero, pattern 0x3DDB7CDFD9D7BDBB, pattern 0x3DEB7CDFD9D7BDBB] := by decide +kernel

theorem test_bitlen : [0, 1, 2, 3, 4, 255, 256, 32767, 32768, 65535, 65536, 2 ^ 31].map bitlen =
    [0, 1, 2, 2, 3, 8, 9, 15, 16, 16, 17, 32] := by decide +kernel

/-- 0.1 + 0.2 and 0.1 · 0.2 and 1 / 3 round to these patterns; 2^53 + 1 is a tie and goes to the even 2^53; half of three
times the smallest subnormal is a tie and goes to twice it. -/
theorem test_binary64_rounding :
    (pattern 0x3FB999999999999A).add (pattern 0x3FC999999999999A) = pattern 0x3FD3333333333334 ∧
    (pattern 0x3FB999999999999A).mul (pattern 0x3FC999999999999A) = pattern 0x3F947AE147AE147C ∧
    (F64.ofInt 1).divNat 3 = pattern 0x3FD5555555555555 ∧
    (F64.ofInt (2 ^ 53)).add (F64.ofInt 1) = F64.ofInt (2 ^ 53) ∧
    (pattern 0x0000000000000003).divNat 2 = pattern 0x0000000000000002 := by decide +kernel

/-- The sign of an exact zero: a sum of opposite values is +0, a product takes the sign of its factors. -/
theorem test_binary64_zero_sign :
    (F64.ofInt 5).sub (F64.ofInt 5) = F64.zero ∧ F64.zero.mul (F64.ofInt (-1)) = F64.zero.negate ∧
    F64.zero.add F64.zero.negate = F64.zero := by decide +kernel

/-! ### The thirteen commands -/

/-- T-MS: L = [3, 1, -4, 100], R = [1, 0, 4, -101]. -/
theorem test_msfwd :
    let s := { demo with rmem := reals 0 [3, 1, -4, 100, 1, 0, 4, -101], src1 := 4, cnt := 4 }
    realsAt (after .msfwd s) 100 4 = [some (F64.ofInt 2), some (pattern 0x3FE0000000000000), some F64.zero,
      some (pattern 0xBFE0000000000000)] ∧
    realsAt (after .msfwd s) 200 4 = [some (F64.ofInt 1), some (pattern 0x3FE0000000000000), some (F64.ofInt (-4)),
      some (pattern 0x4059200000000000)] := by decide +kernel

/-- T-FAULT: the two sources may coincide; the two destinations may not meet; CNT = 0 completes. -/
theorem test_msfwd_regions :
    (after .msfwd { demo with dst0 := 8, dst1 := 12, cnt := 4 }).status = 0x002 ∧
    (after .msfwd { demo with src1 := 4, dst0 := 8, dst1 := 11, cnt := 4 }).status = 0x404 ∧
    (after .msfwd { demo with src1 := 8, dst0 := 11, dst1 := 20, cnt := 4 }).status = 0x404 ∧
    (after .msfwd { demo with cnt := 0, dst0 := 0xFFFFFFFF }).status = 0x002 := by decide +kernel

/-- T-MS: the way back. -/
theorem test_msinv :
    let s := { demo with
      rmem := [(0, F64.ofInt 2), (1, pattern 0xBFE0000000000000), (4, F64.ofInt 1), (5, pattern 0x4059200000000000)],
      src1 := 4, cnt := 2 }
    realsAt (after .msinv s) 100 2 = asReals [3, 100] ∧ realsAt (after .msinv s) 200 2 = asReals [1, -101] := by
  decide +kernel

/-- T-MS: 32767.5, 40000, -32768.5, -40000, 0.5, -0.5, 12.5. -/
theorem test_pcmout :
    let s := { demo with
      cnt := 7,
      rmem := Memory.cells 0 ([0x40DFFFE000000000, 0x40E3880000000000, 0xC0E0001000000000, 0xC0E3880000000000,
        0x3FE0000000000000, 0xBFE0000000000000, 0x4029000000000000].map pattern) }
    intsAt (after .pcmout s) 100 7 =
      [some 32767, some 32767, some (-32768), some (-32768), some 1, some (-1), some 13] ∧
    (after .pcmout s).status = 0x002 := by decide +kernel

/-- T-FRAME, N = 2 and N = 3, S = 4. -/
theorem test_frame :
    let t := after .frame { demo with cnt := 4 }
    let u := after .frame { demo with cnt := 4, cfgN := 3 }
    realsAt t 100 12 = asReals [0, 0, 1, 2, 1, 2, 3, 4, 3, 4, 0, 0] ∧ t.res = 3 ∧
    realsAt u 100 12 = asReals [0, 0, 0, 1, 2, 3, 1, 2, 3, 4, 0, 0] ∧ u.res = 2 := by decide +kernel

/-- T-FRAME, S = 0; T-FAULT, the destination that fits exactly and the one that is a word too far. -/
theorem test_frame_edges :
    realsAt (after .frame { demo with cnt := 0 }) 100 5 = asReals [0, 0, 0, 0] ++ [none] ∧
    (after .frame { demo with cnt := 4, dst0 := 1048564 }).status = 0x002 ∧
    (after .frame { demo with cnt := 4, dst0 := 1048565 }).status = 0x304 := by decide +kernel

/-- The factors of N = 2, and of N = 3 and k = 1, from T-PRIM, in binary64. -/
def tableFactor (n k j : Nat) : F64 :=
  pattern (match n, k with
    | 2, 0 => [0x3FD87DE2A6AEA964, 0xBFD87DE2A6AEA964, 0xBFED906BCF328D46, 0xBFED906BCF328D46].getD j 0
    | 2, 1 => [0xBFED906BCF328D46, 0x3FED906BCF328D46, 0xBFD87DE2A6AEA964, 0xBFD87DE2A6AEA964].getD j 0
    | _, _ => 0)

/-- The binary64 instance with a table of factors in place of the free ones. -/
def tabled : Numerics F64 :=
  { binary64 with
    win := fun _ j => pattern ([0x3FD87DE2A6AEA964, 0x3FED906BCF328D46, 0x3FED906BCF328D46, 0x3FD87DE2A6AEA964].getD j 0)
    ker := fun n i k => tableFactor n k i }

/-- T-FRAME: WINA and WINS of [2, 0, 0, -2] and [0, 0, 100, 0]. -/
theorem test_window :
    tabulate 8 (windowOf tabled 2 (fun i => F64.ofInt ([2, 0, 0, -2, 0, 0, 100, 0].getD i 0))) =
      [0x3FE87DE2A6AEA964, 0, 0, 0xBFE87DE2A6AEA964, 0, 0, 0x405718D439DF7E5F, 0].map pattern := by decide +kernel

/-- T-FAULT: in place, meeting by one word, adjacent, and bounds before overlap. -/
theorem test_wina_regions :
    (after .wina { demo with dst0 := 0 }).status = 0x404 ∧ (after .wina { demo with dst0 := 3 }).status = 0x404 ∧
    (after .wina { demo with src0 := 1048574, dst0 := 1048574 }).status = 0x304 ∧
    (after .wina { demo with dst0 := 16, cnt := 0x40000000 }).status = 0x304 := by decide +kernel

theorem test_wins_regions :
    (after .wins { demo with dst0 := 3 }).status = 0x404 ∧ (after .wins { demo with cnt := 0 }).status = 0x002 ∧
    (after .wins { demo with cnt := 0 }).rmem = demo.rmem := by decide +kernel

/-- T-MDCT: two blocks, N = 2, the source [1, 0, 0, 0, 1, 2, 3, 4]; the spec gives nine digits. -/
theorem test_mdct :
    tabulate 4 (mdctOf tabled 2 (fun i => F64.ofInt ([1, 0, 0, 0, 1, 2, 3, 4].getD i 0))) =
      [0x3FD87DE2A6AEA964, 0xBFED906BCF328D46, 0xC01B663C7FB72633, 0xBFFC1416BC1861CC].map pattern := by decide +kernel

/-- T-FAULT. -/
theorem test_mdct_regions :
    (after .mdct { demo with dst0 := 2 }).status = 0x404 ∧ (after .mdct { demo with dst0 := 1048575 }).status = 0x304 ∧
    (after .mdct { demo with src0 := 1048573, dst0 := 0 }).status = 0x304 ∧
    (after .mdct { demo with src0 := 0xFFFFFFFF, dst0 := 0xFFFFFFFF, cnt := 0 }).status = 0x002 ∧
    (after .mdct { demo with cfgN := 4096, cfgM := 4095, cnt := 0 }).status = 0x002 ∧
    (after .mdct { demo with cfgN := 4097, cnt := 0 }).status = 0x204 ∧
    (after .mdct { demo with cfgM := 2, cnt := 0 }).status = 0x204 ∧
    (after .mdct { demo with cfgN := 4, cfgM := 0xFFFFFFFF, cnt := 0 }).status = 0x204 := by decide +kernel

/-- T-MDCT: IMDCT of [3, -2]. -/
theorem test_imdct :
    tabulate 4 (imdctOf tabled 2 (fun i => F64.ofInt ([3, -2].getD i 0))) =
      [0x4007F76AE61AC628, 0xC007F76AE61AC628, 0xC0000CD831BA3F9B, 0xC0000CD831BA3F9B].map pattern := by decide +kernel

/-- T-MDCT, the snap: of [2e-10, 0] the first two outputs are +0 and the last two are kept. -/
theorem test_imdct_snap :
    tabulate 4 (imdctOf tabled 2 (fun i => pattern ([0x3DEB7CDFD9D7BDBB, 0].getD i 0))) =
      [0, 0, 0xBDE96539684783B2, 0xBDE96539684783B2].map pattern := by decide +kernel

/-- T-QUANT: [2.4, -3.5, 0.49, 100] with N = 4 and M = 1; N = 2 and M = 1 with dropped words nothing has written. -/
theorem test_quant :
    let s := { demo with
      cfgN := 4, cfgM := 1,
      rmem := Memory.cells 0 ([0x4003333333333333, 0xC00C000000000000, 0x3FDF5C28F5C28F5C].map pattern) }
    intsAt (after .quant s) 100 4 = [some 2, some (-4), some 0, none] ∧
    intsAt (after .quant { demo with cfgM := 1, cnt := 2, rmem := reals 0 [8] ++ reals 2 [-7] }) 100 3 =
      [some 8, some (-7), none] := by decide +kernel

/-- T-QUANT, the range: 2147483647.4 fits and 2147483647.5 does not; nothing is written. -/
theorem test_quant_range :
    let fits := { demo with rmem := [(0, pattern 0x41DFFFFFFFD9999A), (1, pattern 0xC1E00000000CCCCD)] }
    let high := { demo with rmem := [(0, pattern 0x41DFFFFFFFE00000), (1, F64.zero)] }
    let low := { demo with rmem := [(0, F64.zero), (1, pattern 0xC1E0000000100000)] }
    intsAt (after .quant fits) 100 2 = [some 2147483647, some (-2147483648)] ∧
    (after .quant high).status = 0x504 ∧ (after .quant high).qmem = high.qmem ∧ (after .quant low).status = 0x504 := by
  decide +kernel

/-- T-QUANT: N = 4, M = 3, two blocks. -/
theorem test_dequant :
    realsAt (after .dequant { demo with cfgN := 4, cfgM := 3, cnt := 2 }) 100 8 =
      asReals [5, 0, 0, 0, -6, 0, 0, 0] := by decide +kernel

/-- T-OLA. -/
theorem test_ola :
    let s := { demo with
      rmem := reals 0 [1, 2, 3, 4, 10, 20, 30, 40, 100, 200, 300, 400], cnt := 3 }
    realsAt (after .ola s) 100 5 = asReals [13, 24, 130, 240] ++ [none] ∧ (after .ola s).res = 4 := by decide +kernel

/-- T-OLA, T-FAULT: one block and no block. -/
theorem test_ola_few :
    (after .ola { demo with dst0 := 0 }).status = 0x002 ∧ (after .ola { demo with dst0 := 0 }).rmem = demo.rmem ∧
    (after .ola { demo with cnt := 0, res := 7 }).res = 0 := by decide +kernel

/-- T-PACK: [2, -3] in three bytes, and the truncated [70000, -3] with TRUNC. -/
theorem test_pack :
    let t := after .pack { demo with cnt := 2, qmem := ints 0 [2, -3] }
    let u := after .pack { demo with cnt := 2, qmem := ints 0 [70000, -3] }
    t.bmem = demo.bmem ++ [(100, 0x19), (101, 0x0E), (102, 0xC0)] ∧ t.res = 3 ∧ t.status = 0x002 ∧
    u.bmem = demo.bmem ++ [(100, 0x80), (101, 0x45), (102, 0xC0), (103, 0x76)] ∧ u.status = 0x012 := by decide +kernel

/-- T-PACK, the destination's bound. -/
theorem test_pack_bound :
    let s := { demo with cnt := 4, qmem := ints 0 [0, 0, 0, 0], dst0 := 4194300, res := 9 }
    (after .pack s).status = 0x002 ∧ (after .pack { s with dst0 := 4194301 }).status = 0x304 ∧
    (after .pack { s with dst0 := 4194301 }).res = 9 ∧
    (after .pack { s with qmem := ints 0 [0, 0, 0, 16] }).status = 0x304 ∧
    (after .pack { s with cnt := 0, dst0 := 0xFFFFFFFF }).status = 0x002 := by decide +kernel

/-- T-UNPACK: 21 40. -/
theorem test_unpack :
    let t := after .unpack { demo with src1 := 2, cnt := 2 }
    let u := after .unpack { demo with src1 := 1, cnt := 2 }
    intsAt t 100 2 = [some 5, some 0] ∧ t.status = 0x002 ∧ intsAt u 100 2 = [some 4, some 0] ∧ u.status = 0x022 := by
  decide +kernel

/-- T-UNPACK: NB = 31, and NB = 17, which the encoder never writes. -/
theorem test_unpack_wide :
    let t := after .unpack { demo with src1 := 5, bmem := Memory.cells 0 [0xFF, 0xFF, 0xFF, 0xFF, 0xFF] }
    let u := after .unpack { demo with src1 := 3, bmem := Memory.cells 0 [0x8C, 0x00, 0x04] }
    intsAt t 100 1 = [some (-2147483647)] ∧ t.status = 0x002 ∧ intsAt u 100 1 = [some (-2)] ∧
    (after .unpack { demo with src0 := 4194304, src1 := 0 }).status = 0x022 ∧
    (after .unpack { demo with src0 := 4194303, src1 := 2 }).status = 0x304 := by decide +kernel

/-! ### The host port and the life cycle (T-FAULT) -/

/-- Priority: an illegal word with N = 0 reports E_ILLEGAL. -/
theorem test_priority :
    (nextOf (coreTurn { demo with cfgN := 0, cmd := 0 })).map (fun t => (t.status, t.cmd)) = some (0x104, 0) := by
  decide +kernel

/-- While BUSY, CMD, DST0 and CTRL cannot be written; STATUS reads 0x001. -/
theorem test_busy_writes :
    demo.csrWrite 2 4 = demo ∧ demo.csrWrite 10 99 = demo ∧ demo.csrWrite 0 1 = demo ∧ demo.csrRead 1 = 0x001 := by
  decide +kernel

/-- After a fault CMD is refused, CFG_N is stored, CTRL with bit 0 = 0 does nothing, and the soft reset clears STATUS,
CMD and CFG_N. -/
theorem test_faulted_port :
    let s := { demo with busy := false, fault := true, errcode := 2, cfgN := 0 }
    s.csrWrite 2 4 = s ∧ (s.csrWrite 4 2).cfgN = 2 ∧ s.csrWrite 0 0xFFFFFFFE = s ∧ (s.csrWrite 0 1).status = 0 ∧
    (s.csrWrite 0 1).cmd = 0 ∧ (s.csrWrite 0 1).rmem = s.rmem := by decide +kernel

/-- Acceptance clears DONE and TRUNC and keeps RES. -/
theorem test_accept :
    let s := { demo with busy := false, done := true, trunc := true, res := 3 }
    s.status = 0x012 ∧ (s.csrWrite 2 6).status = 0x001 ∧ (s.csrWrite 2 6).res = 3 := by decide +kernel

/-- BufWrite and BufRead of the last byte of BMEM, and the ignored write one beyond it. -/
theorem test_buffer_port :
    let s := { demo with busy := false }
    let t := State.transact Config.params (.bufWriteB 4194303 0xAB) s
    (State.transact Config.params (.bufRead .bmem 4194303) t).replies = [.byte 0xAB] ∧
    State.transact Config.params (.bufWriteB 4194304 0xAB) s = s := by decide +kernel

/-- U4, R32: a hardware reset while MSFWD is pending keeps its source and the word between its destinations, leaves a
value in each destination word, and zeroes CMD and CFG_N; R33: of an idle block it forgets every word. -/
theorem test_hardware_reset :
    let s := { demo with rmem := demo.rmem ++ reals 100 [7, 8] }
    let t := s.hardwareReset Config.params
    realsAt t 0 8 = asReals [1, 2, 3, 4, 10, 20, 30, 40] ∧ Memory.read t.rmem 101 = some (F64.ofInt 8) ∧
    (Memory.read t.rmem 100).isSome ∧ (Memory.read t.rmem 200).isSome ∧ t.qmem = s.qmem ∧ t.cmd = 0 ∧ t.cfgN = 0 ∧
    (({ s with busy := false } : State).hardwareReset Config.params).rmem = [] := by decide +kernel

/-- U4: a pending PACK that is abandoned leaves its two bytes unspecified and the others as they were. -/
theorem test_hardware_reset_pack :
    let s := { demo with cmd := 6, bmem := demo.bmem ++ [(102, 0x33)] }
    let t := s.hardwareReset Config.params
    Memory.read t.bmem 0 = some 0x21 ∧ (Memory.read t.bmem 100).isSome ∧ (Memory.read t.bmem 101).isSome ∧
    Memory.read t.bmem 102 = some 0x33 ∧ (Memory.read t.bmem 103).isNone := by decide +kernel

/-- A script of two lines: four turns of the host. -/
theorem test_script : (scriptOf ([.config 2 0, .sreset, .csrr .res] : List ScriptLine)).length = 4 := by decide

/-! ### Witnesses: a concrete state and operands for the hypotheses of each statement -/

/-- The block of `demo`, idle. -/
def idle : State := { demo with busy := false }

/-- The block of `demo` after a fault E_CONFIG. -/
def faulted : State := { idle with fault := true, errcode := 2 }

/-- DecodeEncodeAgree: the last code of R59. -/
theorem witness_decodeEncodeAgree : decode 0x0000000D = .ok .pcmout := by decide

/-- LegalCommandWords: an idle block, and the words beside both ends of the legal range. -/
theorem witness_legalCommandWords : State.reset.busy = false ∧ State.reset.fault = false ∧
    (∀ i : Instr, decode 0x00000000 ≠ .ok i) ∧ (∀ i : Instr, decode 0x0000000E ≠ .ok i) ∧
    (∃ i, decode 0x00000001 = .ok i) ∧ ∃ i, decode 0x0000000D = .ok i := by
  refine ⟨rfl, rfl, fun i => ?_, fun i => ?_, ⟨.msfwd, rfl⟩, .pcmout, rfl⟩ <;> cases i <;> decide

/-- StepKeepsInvariant: a pending command, a pending transaction and a pending reset; and the smallest other build, in the
reference instance. -/
theorem witness_stepKeepsInvariant : Inv demo ∧ (∃ t, step demo = .next t) ∧
    Inv { demo with turns := [.host (.csrRead 1)] } ∧ Inv { demo with turns := [.hardwareReset] } ∧
    InvOn (Params.mk 1 2 1 1) (State.initial : State ℝ) ∧
    ∃ t, stepOn (Params.mk 1 2 1 1) reference (State.initial : State ℝ) = .next t := by
  refine ⟨by decide +kernel, ⟨_, rfl⟩, by decide +kernel, by decide +kernel, ?_, _, rfl⟩
  simp [InvOn, LegalStatus, SoundMemories, Memory.wf, State.initial]

/-- StepRunsDecodedCommand: a legal and an illegal word, with the core's turn pending and with none pending. -/
theorem witness_stepRunsDecodedCommand : demo.busy = true ∧ demo.turns = [] ∧ Instr.msfwd.wf ∧
    decode demo.cmd = .ok .msfwd ∧ ({ demo with turns := [.core, .hardwareReset] } : State).turns = [.core, .hardwareReset] ∧
    ∀ i : Instr, decode ({ demo with cmd := 14 } : State).cmd ≠ .ok i := by
  refine ⟨rfl, rfl, trivial, rfl, rfl, fun i => ?_⟩
  cases i <;> decide

/-- CommandFaults, E_ILLEGAL and E_CONFIG: N one too small, one too large, M = N and M = -1. -/
theorem witness_commandFaults_config :
    (demo.busy = true ∧ ∀ i : Instr, decode ({ demo with cmd := 0 } : State).cmd ≠ .ok i) ∧
    ¬ ConfigValid Config.params { demo with cfgN := 0 } ∧ ¬ ConfigValid Config.params { demo with cfgN := 4097 } ∧
    ¬ ConfigValid Config.params { demo with cfgM := 2 } ∧ ¬ ConfigValid Config.params { demo with cfgM := -1 } ∧
    ConfiguredAs { demo with cfgN := 4096, cfgM := 4095 } 4096 4095 ∧ ConfiguredAs { demo with cfgN := 1 } 1 0 := by
  refine ⟨⟨rfl, fun i => by cases i <;> decide⟩, ?_⟩
  decide +kernel

/-- CommandFaults, E_BOUNDS: MDCT with a destination one word too far; and the destination that fits exactly. -/
theorem witness_commandFaults_bounds : ConfiguredAs demo 2 0 ∧ ¬ AllFit .mdct { demo with dst0 := 1048575 } 2 0 ∧
    AllFit .mdct { demo with dst0 := 1048574 } 2 0 := by
  refine ⟨by decide +kernel, ?_, ?_⟩
  · simp [AllFit, sourceTable, targetTable, TableFits, unitsOf, Config.params, demo, State.reset, State.initial]
  · simp [AllFit, sourceTable, targetTable, TableFits, unitsOf, Config.params, demo, State.reset, State.initial]

/-- CommandFaults, E_OVERLAP: WINA whose regions share one word; MSFWD whose destinations share one word. -/
theorem witness_commandFaults_overlap :
    (AllFit .wina { demo with dst0 := 3 } 2 0 ∧ SomeMeet .wina { demo with dst0 := 3 } 2 0) ∧
    AllFit .msfwd { demo with cnt := 4, dst0 := 8, dst1 := 11 } 2 0 ∧
    SomeMeet .msfwd { demo with cnt := 4, dst0 := 8, dst1 := 11 } 2 0 := by
  refine ⟨⟨?_, .inl ⟨_, .head _, _, .head _, ?_⟩⟩, ?_, .inr ⟨_, _, _, rfl, ?_⟩⟩ <;>
    simp [AllFit, sourceTable, targetTable, TableFits, TableMeets, unitsOf, Config.params, demo, State.reset, State.initial]

/-- CommandFaults, E_RANGE at both ends of the range, and PACK's E_BOUNDS one byte too far. -/
theorem witness_commandFaults_data :
    AllFit .quant { demo with rmem := reals 0 [2 ^ 31, -2 ^ 31 - 1] } 2 0 ∧
    2 ^ 31 - 1 < (({ demo with rmem := reals 0 [2 ^ 31, -2 ^ 31 - 1] } : State).readR 0).rnd ∧
    (({ demo with rmem := reals 0 [2 ^ 31, -2 ^ 31 - 1] } : State).readR 1).rnd < -2 ^ 31 ∧
    AllFit .pack { demo with cnt := 2, dst0 := 4194302 } 2 0 ∧
    ¬ Fits 4194302 (packBytes [5, -6]).length Config.params.bbytes := by
  refine ⟨?_, by decide +kernel, by decide +kernel, ?_, by decide +kernel⟩ <;>
    simp [AllFit, sourceTable, targetTable, TableFits, unitsOf, Config.params, demo, State.reset, State.initial]

/-- FaultEntry: a pending command on an unconfigured block. -/
theorem witness_faultEntry : LegalStatus { demo with cfgN := 0 } ∧
    ∃ t, coreTurn { demo with cfgN := 0 } = .next t ∧ t.fault = true := ⟨by decide +kernel, _, rfl, by decide +kernel⟩

/-- SecondFaultImpossible: a faulted block with no turn, with a refused command, with each reset. -/
theorem witness_secondFaultImpossible : Inv faulted ∧ faulted.fault = true ∧
    (∃ t, step faulted = .next t) ∧ (∃ t, step { faulted with turns := [.host (.csrWrite 2 4)] } = .next t) ∧
    (∃ t, step { faulted with turns := [.hardwareReset] } = .next t) ∧
    ∃ t, step { faulted with turns := [.host (.csrWrite 0 1)] } = .next t ∧ t.fault = false :=
  ⟨by decide +kernel, rfl, ⟨_, rfl⟩, ⟨_, rfl⟩, ⟨_, rfl⟩, _, rfl, by decide +kernel⟩

/-- SoftResetRule: idle, busy, and a faulted block whose FAULT each reset clears. -/
theorem witness_softResetRule : idle.busy = false ∧ (1 : Word).getLsbD 0 = true ∧ demo.busy = true ∧
    faulted.fault = true ∧ (∃ t, step { faulted with turns := [.host (.csrWrite 0 1)] } = .next t ∧ t.fault = false) ∧
    ∃ t, step { faulted with turns := [.hardwareReset] } = .next t ∧ t.fault = false :=
  ⟨rfl, by decide, rfl, rfl, ⟨_, rfl, by decide +kernel⟩, _, rfl, rfl⟩

/-- HardwareResetRule: an idle block; a pending MSFWD with an address inside its destination and one outside; an illegal
word and an invalid configuration pending. -/
theorem witness_hardwareResetRule : idle.busy = false ∧ demo.busy = true ∧ decode demo.cmd = .ok .msfwd ∧
    ConfiguredAs demo 2 0 ∧ (∃ r ∈ pendingTable .msfwd demo 2 0, r.1 = .rmem ∧ InTable r 100 ∧ 100 < unitsOf .rmem) ∧
    (∀ r ∈ pendingTable .msfwd demo 2 0, r.1 = .rmem → ¬ InTable r 101) ∧
    (∀ i : Instr, decode ({ demo with cmd := 0 } : State).cmd ≠ .ok i) ∧
    ¬ ConfigValid Config.params { demo with cfgN := 0 } := by
  refine ⟨rfl, rfl, rfl, by decide +kernel, ⟨_, .head _, rfl, ?_, by decide +kernel⟩, ?_, fun i => by cases i <;> decide,
    by decide +kernel⟩
  · simp [InTable, demo]
  · intro r hr _
    simp only [pendingTable, reduceCtorEq, if_false, targetTable, List.mem_cons, List.not_mem_nil, or_false] at hr
    rcases hr with rfl | rfl <;> simp [InTable, demo]

/-- ResetConfigurationRefuses: a command accepted right after either reset. -/
theorem witness_resetConfigurationRefuses :
    (State.reset.accept 4).cfgN = 0 ∧ ((demo.hardwareReset Config.params).accept 4).cfgN = 0 ∧ (idle.softReset.accept 4).cfgN = 0 := by
  decide +kernel

/-- CommandKeepsControl: a completed and a faulting command. -/
theorem witness_commandKeepsControl :
    (∃ t, exec .ola demo = .next t ∧ t.done = true) ∧ ∃ t, exec .ola { demo with cfgN := 0 } = .next t ∧ t.fault = true :=
  ⟨⟨_, rfl, by decide +kernel⟩, _, rfl, by decide +kernel⟩

/-- CommandIsFunctionOfSources: two states that agree on MSFWD's operands and source word and on little else; and two on
which the command faults. -/
theorem witness_commandIsFunctionOfSources :
    ConfiguredAs demo 2 0 ∧ SameOperands demo { demo with res := 9, qmem := [], rmem := reals 0 [1], cmd := 7 } ∧
    (∀ r ∈ sourceTable .msfwd demo 2 0, ∀ a, InTable r a →
      SameUnit r.1 demo { demo with res := 9, qmem := [], rmem := reals 0 [1], cmd := 7 } a) ∧
    (∃ t, exec .msfwd demo = .next t ∧ t.done = true) ∧
    (∃ t, exec .msfwd { demo with res := 9, qmem := [], rmem := reals 0 [1], cmd := 7 } = .next t) ∧
    ∃ t, exec .wina { demo with dst0 := 0 } = .next t ∧ t.fault = true := by
  refine ⟨by decide +kernel, ⟨rfl, rfl, rfl, rfl, rfl, rfl, rfl⟩, ?_, ⟨_, rfl, by decide +kernel⟩, ⟨_, rfl⟩,
    _, rfl, by decide +kernel⟩
  intro r hr a ha
  simp only [sourceTable, List.mem_cons, List.not_mem_nil, or_false] at hr
  rcases hr with rfl | rfl
  all_goals
    have h : a = 0 := by simpa [InTable, demo, State.reset, State.initial] using ha
    subst h
    simp only [SameUnit]
    decide +kernel

/-- CompletionIsEventuallyTaken: the host moves twice before the core; and a hardware reset comes first. -/
theorem witness_completionIsEventuallyTaken :
    ({ demo with turns := [.host (.csrRead 1), .host (.csrWrite 2 3), .core] } : State).busy = true ∧
    Turn.hardwareReset ∉ ({ demo with turns := [.host (.csrRead 1), .host (.csrWrite 2 3), .core] } : State).turns ∧
    ({ demo with turns := [.hardwareReset] } : State).busy = true := by decide +kernel

/-- AcceptanceRule, ControlRegisterRule, BusyHostAccess, BufferTransactions: idle, busy and faulted blocks, both kinds of
value written to CTRL, and the last address of each space with the one beyond it. -/
theorem witness_hostAccess :
    (idle.busy = false ∧ idle.fault = false) ∧ demo.busy = true ∧ faulted.fault = true ∧
    (0xFFFFFFFE : Word).getLsbD 0 = false ∧ (1 : Word).getLsbD 0 = true ∧
    (1048575 : Word).toNat < Config.params.rwords ∧ Config.params.rwords ≤ (1048576 : Word).toNat ∧
    (1048575 : Word).toNat < Config.params.qwords ∧ Config.params.qwords ≤ (1048576 : Word).toNat ∧
    (4194303 : Word).toNat < Config.params.bbytes ∧ Config.params.bbytes ≤ (4194304 : Word).toNat := by decide +kernel

/-- RegisterIndexMap, IgnoredWrites: the unmapped indices at their ends, where no mapped one lies. -/
theorem witness_unmappedIndices :
    (6 : Word) = 6 ∧ (7 : Word) = 7 ∧ 13 ≤ (13 : Word).toNat ∧ 13 ≤ (0xFFFFFFFF : Word).toNat ∧
    ¬ 13 ≤ (12 : Word).toNat ∧ idle.csrRead 12 = 1 ∧ idle.csrRead 13 = 0 ∧ idle.csrWrite 12 5 ≠ idle := by
  decide +kernel

/-- ScriptRunsCommand. -/
theorem witness_scriptRunsCommand : (ScriptLine.op .mdct 0 100 1 : ScriptLine).wf ∧
    ({ idle with turns := scriptTurns (.op .mdct 0 100 1) ++ [.core] } : State).turns =
      scriptTurns (.op .mdct 0 100 1) ++ [.core] ∧ idle.busy = false ∧ idle.fault = false :=
  ⟨rfl, rfl, rfl, rfl⟩

/-- MsfwdCompletes, MsinvCompletes: adjacent regions, the last ending at the last word of RMEM. -/
theorem witness_matrixCompletes : ConfiguredAs { demo with src1 := 1, dst0 := 2, dst1 := 1048575 } 2 0 ∧
    Fits 0 1 Config.params.rwords ∧ Fits 1 1 Config.params.rwords ∧ Fits 2 1 Config.params.rwords ∧
    Fits 1048575 1 Config.params.rwords ∧ Apart 0 1 2 1 ∧ Apart 0 1 1048575 1 ∧ Apart 1 1 2 1 ∧ Apart 1 1 1048575 1 ∧
    Apart 2 1 1048575 1 := by decide +kernel

/-- PcmoutCompletes, and every command with CNT = 0: an empty region fits at every base. -/
theorem witness_pcmoutCompletes : ConfiguredAs demo 2 0 ∧ Fits demo.src0 demo.cnt.toNat Config.params.rwords ∧
    Fits demo.dst0 demo.cnt.toNat Config.params.qwords ∧ Fits 0xFFFFFFFF 0 Config.params.rwords ∧
    Apart 0xFFFFFFFF 0 0 4 := by decide +kernel

/-- FrameCompletes: S = 4 and N = 2, the destination ending at the last word; and S = 0. -/
theorem witness_frameCompletes : ConfiguredAs { demo with cnt := 4, dst0 := 1048564 } 2 0 ∧
    Fits 0 4 Config.params.rwords ∧ Fits 1048564 ((4 / 2 + 1) * (2 * 2)) Config.params.rwords ∧
    Apart 0 4 1048564 ((4 / 2 + 1) * (2 * 2)) ∧ Fits 0 ((0 / 2 + 1) * (2 * 2)) Config.params.rwords := by decide +kernel

/-- WindowsComplete: adjacent regions. -/
theorem witness_windowsComplete : (Instr.wina = .wina ∨ Instr.wina = .wins) ∧ ConfiguredAs { demo with dst0 := 4 } 2 0 ∧
    Fits 0 (1 * (2 * 2)) Config.params.rwords ∧ Fits 4 (1 * (2 * 2)) Config.params.rwords ∧
    Apart 0 (1 * (2 * 2)) 4 (1 * (2 * 2)) := by decide +kernel

/-- MdctCompletes: the destination that fits exactly. -/
theorem witness_mdctCompletes : ConfiguredAs { demo with dst0 := 1048574 } 2 0 ∧
    Fits 0 (1 * (2 * 2)) Config.params.rwords ∧ Fits 1048574 (1 * 2) Config.params.rwords ∧
    Apart 0 (1 * (2 * 2)) 1048574 (1 * 2) := by decide +kernel

/-- ImdctCompletes. -/
theorem witness_imdctCompletes : ConfiguredAs { demo with dst0 := 2 } 2 0 ∧ Fits 0 (1 * 2) Config.params.rwords ∧
    Fits 2 (1 * (2 * 2)) Config.params.rwords ∧ Apart 0 (1 * 2) 2 (1 * (2 * 2)) := by decide +kernel

/-- QuantCompletes: coefficients at both ends of the 32-bit range. -/
theorem witness_quantCompletes :
    let s := { demo with rmem := reals 0 [2 ^ 31 - 1, -2 ^ 31] }
    ConfiguredAs s 2 0 ∧ Fits s.src0 (1 * 2) Config.params.rwords ∧ Fits s.dst0 (1 * (2 - 0)) Config.params.qwords ∧
    ∀ b < 1, ∀ j < 2 - 0, -2 ^ 31 ≤ (s.readR (s.src0.toNat + (b * 2 + j))).rnd ∧
      (s.readR (s.src0.toNat + (b * 2 + j))).rnd ≤ 2 ^ 31 - 1 := by decide +kernel

/-- DequantCompletes, with M = 1. -/
theorem witness_dequantCompletes : ConfiguredAs { demo with cfgM := 1 } 2 1 ∧
    Fits 0 (1 * (2 - 1)) Config.params.qwords ∧ Fits 100 (1 * 2) Config.params.rwords := by decide +kernel

/-- OlaCompletes: two blocks; and one block, whose empty destination fits anywhere. -/
theorem witness_olaCompletes : ConfiguredAs { demo with cnt := 2 } 2 0 ∧ Fits 0 (2 * (2 * 2)) Config.params.rwords ∧
    Fits 100 ((2 - 1) * 2) Config.params.rwords ∧ Apart 0 (2 * (2 * 2)) 100 ((2 - 1) * 2) ∧
    Fits 0xFFFFFFFF ((1 - 1) * 2) Config.params.rwords ∧ Apart 0 (1 * (2 * 2)) 0 ((1 - 1) * 2) := by decide +kernel

/-- PackCompletes: the destination ending at the last byte; a value of magnitude 65536 among the source's. -/
theorem witness_packCompletes :
    ConfiguredAs { demo with dst0 := 4194301 } 2 0 ∧ Fits demo.src0 demo.cnt.toNat Config.params.qwords ∧
    Fits 4194301 ((([65536] : List Int).flatMap (fun v => (encodeElement v).bits)).length / 8 + 1) Config.params.bbytes ∧
    65536 ≤ |(65536 : Int)| := by decide +kernel

/-- UnpackCompletes: enough bytes, and none. -/
theorem witness_unpackCompletes : ConfiguredAs { demo with src1 := 2 } 2 0 ∧ Fits 0 2 Config.params.bbytes ∧
    Fits 0xFFFFFFFF 0 Config.params.bbytes ∧ Fits demo.dst0 demo.cnt.toNat Config.params.qwords := by decide +kernel

/-! ### Witnesses for the laws -/

/-- ClampRoundCommute: each clause beside its bound. -/
theorem witness_clampRoundCommute : (-32768.5 : ℝ) < -32768 ∧ (32767 : ℝ) < 32767.5 ∧ (-32768 : ℝ) ≤ -32768 ∧
    (-32768 : ℝ) ≤ 32767 := by norm_num

/-- SnapRule: just below the limit, and at it, in both instances. -/
theorem witness_snapRule : |(1 / 10 ^ 10 - 1 / 10 ^ 11 : ℝ)| < 1 / 10 ^ 10 ∧ (1 / 10 ^ 10 : ℝ) ≤ |1 / 10 ^ 10| ∧
    (pattern 0x3DDB7CDFD9D7BDBA).scaled < F64.snapLimit.scaled ∧ 0 < (pattern 0x3DDB7CDFD9D7BDBA).scaled := by
  refine ⟨by rw [abs_of_pos] <;> norm_num, le_abs_self _, by decide +kernel, by decide +kernel⟩

/-- BitLengthRule: both clauses. -/
theorem witness_bitLengthRule : 0 < 1 ∧ bitlen 1 = 1 ∧ bitlen 0 + 1 = 1 := by decide

/-- RoundsToNearestEven: the sum, the difference and the product of 1 and 1 are within the format, and 1 is a divisor. -/
theorem witness_roundsToNearestEven : |F64.one.toRat + F64.one.toRat| ≤ largestF64.toRat ∧
    |F64.one.toRat - F64.one.toRat| ≤ largestF64.toRat ∧ |F64.one.toRat * F64.one.toRat| ≤ largestF64.toRat ∧ 0 < 1 := by
  have h1 : F64.one.scaled = 2 ^ 1074 := by decide +kernel
  have h2 : 2 * 2 ^ 1074 ≤ largestF64.scaled := by decide +kernel
  have hc : (0 : ℚ) < 2 ^ 1074 := pow_pos two_pos _
  have one : F64.one.toRat = 1 := by
    rw [F64.toRat, h1, Int.cast_pow, Int.cast_ofNat, div_self hc.ne']
  have two : 2 ≤ largestF64.toRat := by
    have h : ((2 * 2 ^ 1074 : Int) : ℚ) ≤ largestF64.scaled := Int.cast_le.2 h2
    rw [Int.cast_mul, Int.cast_pow, Int.cast_ofNat] at h
    rwa [F64.toRat, le_div_iff₀ hc]
  rw [one]
  exact ⟨by rw [abs_of_pos] <;> linarith, by rw [sub_self, abs_zero]; linarith, by rw [abs_of_pos] <;> linarith, by decide⟩

/-- WindowLaw, TransformMagnitude, TransformAliasing, Reconstruction and the other laws over N: N = 1, with the ends of
each range of indices. -/
theorem witness_smallestN : 1 ≤ 1 ∧ 0 < 1 ∧ 1 < 2 * 1 ∧ 1 ≤ 1 ∧ 1 ≤ 32767 ∧ 32767 ≤ 32767 ∧ 0 < 2 / 1 * 1 := by decide

/-- BlockCountLaw: FRAME of four samples completes. -/
theorem witness_blockCountLaw : ConfiguredAs { demo with cnt := 4 } 2 0 ∧
    ∃ t, exec .frame { demo with cnt := 4 } = .next t ∧ t.fault = false := ⟨by decide +kernel, _, rfl, by decide +kernel⟩

/-- FrameCoverage, OverlapAddAlignment: S = 5 and N = 2: sample 3 is the last in two blocks, sample 4 in one; with S = 4,
N divides S. -/
theorem witness_frameCoverage : 1 ≤ 2 ∧ 3 < 5 ∧ 3 < 5 / 2 * 2 ∧ 4 < 5 ∧ ¬ 4 < 5 / 2 * 2 ∧ 4 % 2 = 0 := by decide

/-- TransformMagnitude: a block of full-scale samples. -/
theorem witness_transformMagnitude : ∀ i < 2 * 1, |(fun _ : Nat => (-32768 : ℝ)) i| ≤ 32768 := by
  intro i _
  norm_num

/-- QuantizerLaw: N = 2, M = 1, a coefficient of 0.5 and a dropped one of 2. -/
theorem witness_quantizerLaw : 1 < 2 ∧ ∀ j < 2, |reference.rnd ((fun i : Nat => if i = 0 then (1 / 2 : ℝ) else 2) j)| < 2 ^ 31 := by
  refine ⟨by decide, fun j hj => ?_⟩
  have h1 : ⌊(1 / 2 + 1 / 2 : ℝ)⌋ = 1 := by norm_num
  have h2 : ⌊(2 + 1 / 2 : ℝ)⌋ = 2 := by norm_num [Int.floor_eq_iff]
  interval_cases j
  · simp only [reference, if_true]
    rw [if_pos (by norm_num), h1]
    norm_num
  · simp only [reference, one_ne_zero, if_false]
    rw [if_pos (by norm_num), h2]
    norm_num

/-- TruncationEnergy: N = 2, M from 0 to 1. -/
theorem witness_truncationEnergy : 0 ≤ 1 ∧ 1 < 2 := by decide

/-- MidSideInverse: the largest integers of its second clause; and l = r = 1, whose sum, difference and halves are
representable and within the format. -/
theorem witness_midSideInverse : |(2 ^ 52 - 1 : Int)| < 2 ^ 52 ∧ |(-2 ^ 52 + 1 : Int)| < 2 ^ 52 ∧
    (∃ y : F64, y.toRat = F64.one.toRat + F64.one.toRat) ∧ (∃ y : F64, y.toRat = F64.one.toRat - F64.one.toRat) ∧
    (∃ y : F64, y.toRat = (F64.one.toRat + F64.one.toRat) / 2) ∧
    (∃ y : F64, y.toRat = (F64.one.toRat - F64.one.toRat) / 2) ∧
    |F64.one.toRat + F64.one.toRat| ≤ largestF64.toRat ∧ |F64.one.toRat - F64.one.toRat| ≤ largestF64.toRat := by
  have h2 : (F64.ofInt 2).scaled = F64.one.scaled + F64.one.scaled := by decide +kernel
  have h0 : F64.zero.scaled = 0 := by decide +kernel
  have two : (F64.ofInt 2).toRat = F64.one.toRat + F64.one.toRat := by
    simp only [F64.toRat, h2, Int.cast_add, add_div]
  have zero : F64.zero.toRat = 0 := by simp only [F64.toRat, h0, Int.cast_zero, zero_div]
  refine ⟨by norm_num, by norm_num [abs_lt], ⟨_, two⟩, ⟨F64.zero, by rw [zero, sub_self]⟩, ⟨F64.one, by ring⟩,
    ⟨F64.zero, by rw [zero, sub_self, zero_div]⟩, witness_roundsToNearestEven.1, witness_roundsToNearestEven.2.1⟩

/-- BlocksAreIndependent: N = 2 and one kept coefficient: block 1 of one source is block 0 of the other, and the two
differ elsewhere. -/
theorem witness_blocksAreIndependent : 1 ≤ 2 ∧ 1 ≤ 1 ∧
    (∀ j < 2 * 2, (fun i : Nat => i - 4) (1 * (2 * 2) + j) = (fun i : Nat => i) (0 * (2 * 2) + j)) ∧
    (∀ j < 2, (fun i : Nat => i - 2) (1 * 2 + j) = (fun i : Nat => i) (0 * 2 + j)) ∧
    (∀ j < 1, (fun i : Nat => (i : Int) - 1) (1 * 1 + j) = (fun i : Nat => (i : Int)) (0 * 1 + j)) ∧
    (fun i : Nat => i - 4) (0 * (2 * 2) + 1) ≠ (fun i : Nat => i) (0 * (2 * 2) + 1) := by decide

/-- QuantizedReconstruction, Reconstruction: N = 1, one sample, and the position it is reconstructed at. -/
theorem witness_reconstruction : 1 ≤ 1 ∧ 0 < 1 / 1 * 1 := by decide

/-- Reconstruction, the clause without deviation: with N = 1 and samples of 1 every output of IMDCT is 0 or the square
root of 2. -/
theorem witness_reconstruction_exact :
    let coefficients := mdctOf reference 1 (windowOf reference 1 (frameOf reference 1 1 (fun _ => 1)))
    ∀ i < blockCount 1 1 * (2 * 1),
      |imdctRawOf reference 1 coefficients i| < 1 / 10 ^ 10 → imdctRawOf reference 1 coefficients i = 0 := by
  intro coefficients i _
  have k0 : reference.ker 1 0 0 = 0 := by
    simp only [reference]
    rw [show Real.pi / ((1 : Nat) : ℝ) * (((0 : Nat) : ℝ) + 1 / 2 + ((1 : Nat) : ℝ) / 2) * (((0 : Nat) : ℝ) + 1 / 2) =
      Real.pi / 2 by push_cast; ring, Real.cos_pi_div_two]
  have k1 : reference.ker 1 1 0 = -1 := by
    simp only [reference]
    rw [show Real.pi / ((1 : Nat) : ℝ) * (((1 : Nat) : ℝ) + 1 / 2 + ((1 : Nat) : ℝ) / 2) * (((0 : Nat) : ℝ) + 1 / 2) =
      Real.pi by push_cast; ring, Real.cos_pi]
  have w1 : reference.win 1 1 = Real.sqrt 2 / 2 := by
    simp only [reference]
    rw [show Real.pi / (2 * ((1 : Nat) : ℝ)) * (((1 : Nat) : ℝ) + 1 / 2) = Real.pi - Real.pi / 4 by push_cast; ring,
      Real.sin_pi_sub, Real.sin_pi_div_four]
  have c : ∀ b, coefficients b = 0 ∨ coefficients b = -(Real.sqrt 2 / 2) := by
    intro b
    have h := mdctOf_block reference 1 (windowOf reference 1 (frameOf reference 1 1 (fun _ => 1))) b (k := 0) (by decide)
    rw [reference_sum, Finset.sum_range_succ, Finset.sum_range_one, k0, k1, windowOf_block reference 1 _ b (j := 1) (by decide),
      w1, frameOf_block reference 1 1 _ b (j := 1) (by decide)] at h
    rw [show b = b * 1 + 0 by omega]
    show mdctOf _ _ _ _ = _ ∨ mdctOf _ _ _ _ = _
    rw [h]
    split <;> simp
  have hs : (0 : ℝ) < Real.sqrt 2 := Real.sqrt_pos.2 two_pos
  have h1 : (1 : ℝ) ≤ Real.sqrt 2 := Real.one_le_sqrt.2 one_le_two
  obtain ⟨b, j, hj, rfl⟩ : ∃ b j, j < 2 * 1 ∧ i = b * (2 * 1) + j :=
    ⟨i / 2, i % 2, Nat.mod_lt _ (by decide), by omega⟩
  rw [imdctRawOf_block reference 1 coefficients b hj, reference_sum, Finset.sum_range_one]
  simp only [Nat.mul_one, Nat.add_zero, reference_mul, reference_divNat, reference_ofInt]
  interval_cases j
  · simp [k0]
  · rw [k1]
    rcases c b with h | h <;> rw [h]
    · simp
    · intro hlt
      rw [abs_of_pos (by push_cast; linarith)] at hlt
      push_cast at hlt
      linarith

/-- SilenceLaw: zeros of both signs. -/
theorem witness_silenceLaw : ∀ j : Nat, ((fun i : Nat => if i % 2 = 0 then F64.zero else F64.zero.negate) j).magBits = 0 := by
  intro j
  by_cases h : j % 2 = 0 <;> simp only [h, if_true, if_false] <;> decide +kernel

/-- ElementRoundTrip: the widest element, at bit 0 of five bytes, and the narrowest. -/
theorem witness_elementRoundTrip :
    (⟨31, true, 2 ^ 31 - 1⟩ : Element).wf ∧
    (∀ i < (⟨31, true, 2 ^ 31 - 1⟩ : Element).bits.length,
      streamBit (fun _ => 0xFF) 5 (0 + i) = (⟨31, true, 2 ^ 31 - 1⟩ : Element).bits.getD i false) ∧
    (⟨0, false, 0⟩ : Element).wf ∧
    ∀ i < (⟨0, false, 0⟩ : Element).bits.length,
      streamBit (fun _ => 0) 1 (1 + i) = (⟨0, false, 0⟩ : Element).bits.getD i false := by decide +kernel

/-- TruncationLaw, ElementSizes: the ends of their ranges. -/
theorem witness_magnitudes : |(-65535 : Int)| ≤ 65535 ∧ 65536 ≤ |(-65536 : Int)| ∧ 1 ≤ |(-1 : Int)| ∧
    |(32767 : Int)| ≤ 32767 ∧ 32768 ≤ |(-32768 : Int)| := by norm_num

/-- UnderrunLaw: the first position past one byte, and a field of two bits that straddles it. -/
theorem witness_underrunLaw : 8 * 1 ≤ 8 ∧ 7 ≤ 8 * 1 ∧ 8 * 1 ≤ 7 + 2 := by decide

/-- PackUnpackRoundTrip: the largest magnitudes, the bytes PACK wrote read back exactly. -/
theorem witness_packUnpackRoundTrip :
    let s := { demo with cnt := 2, qmem := ints 0 [65535, -65535] }
    ConfiguredAs s 2 0 ∧ s.trunc = false ∧ s.underrun = false ∧ Fits s.src0 s.cnt.toNat Config.params.qwords ∧
    Fits s.dst0 (packBytes (tabulate s.cnt.toNat (fun e => (s.readQ (s.src0.toNat + e)).toInt))).length
      Config.params.bbytes ∧
    (∀ e < s.cnt.toNat, |(s.readQ (s.src0.toNat + e)).toInt| ≤ 65535) ∧
    (after .pack s).res.toNat ≤ (6 : Word).toNat ∧ Fits s.dst0 6 Config.params.bbytes ∧
    Fits 8 s.cnt.toNat Config.params.qwords := by decide +kernel

end Sys2Proof.Tests
end

section
/-!
Clamp, round, snap and bit length (00_scope.md R11, R12, R13, R16): the reference operations as functions of a real, the
order of binary64 magnitudes, and the statements of that chapter.
-/

namespace Sys2Proof

/-! ### The reference `rnd` and `clamp16` -/

theorem reference_clamp16_of_lt {v : ℝ} (h : v < -32768) : reference.clamp16 v = -32768 := if_pos h

theorem reference_clamp16_of_gt {v : ℝ} (h : 32767 < v) : reference.clamp16 v = 32767 :=
  (if_neg (by linarith)).trans (if_pos h)

theorem reference_clamp16_of_mem {v : ℝ} (hlow : -32768 ≤ v) (hhigh : v ≤ 32767) : reference.clamp16 v = v :=
  (if_neg hlow.not_gt).trans (if_neg hhigh.not_gt)

theorem reference_clamp16_eq_max_min (v : ℝ) : reference.clamp16 v = max (-32768) (min 32767 v) := by
  rcases lt_or_ge v (-32768) with hlow | hlow
  · rw [reference_clamp16_of_lt hlow, max_eq_left ((min_le_right _ _).trans hlow.le)]
  rcases lt_or_ge 32767 v with hhigh | hhigh
  · rw [reference_clamp16_of_gt hhigh, min_eq_left hhigh.le, max_eq_right (by norm_num)]
  · rw [reference_clamp16_of_mem hlow hhigh, min_eq_right hhigh, max_eq_right hlow]

theorem reference_rnd_of_nonneg {v : ℝ} (h : 0 ≤ v) : reference.rnd v = ⌊v + 1 / 2⌋ := if_pos h

theorem reference_rnd_of_neg {v : ℝ} (h : v < 0) : reference.rnd v = -⌊-v + 1 / 2⌋ := if_neg h.not_ge

/-- `rnd` is monotone (R11): its two branches are, and they meet at 0. -/
theorem reference_rnd_monotone : Monotone reference.rnd := by
  intro a b hab
  rcases lt_or_ge a 0 with ha | ha <;> rcases lt_or_ge b 0 with hb | hb
  · rw [reference_rnd_of_neg ha, reference_rnd_of_neg hb]
    exact neg_le_neg (Int.floor_mono (by linarith))
  · rw [reference_rnd_of_neg ha, reference_rnd_of_nonneg hb]
    have hfa : 0 ≤ ⌊-a + 1 / 2⌋ := Int.floor_nonneg.2 (by linarith)
    have hfb : 0 ≤ ⌊b + 1 / 2⌋ := Int.floor_nonneg.2 (by linarith)
    omega
  · exact absurd (ha.trans hab) hb.not_ge
  · rw [reference_rnd_of_nonneg ha, reference_rnd_of_nonneg hb]
    exact Int.floor_mono (by linarith)

@[simp] theorem reference_rnd_intCast (z : ℤ) : reference.rnd (z : ℝ) = z := by
  have hhalf : ⌊(1 / 2 : ℝ)⌋ = 0 := by norm_num
  rcases lt_or_ge (z : ℝ) 0 with hz | hz
  · rw [reference_rnd_of_neg hz, ← Int.cast_neg, Int.floor_intCast_add, hhalf, add_zero, neg_neg]
  · rw [reference_rnd_of_nonneg hz, Int.floor_intCast_add, hhalf, add_zero]

/-- `rnd` keeps both bounds of the clamp, which are integers, and it is monotone: so it goes through the maximum and the
minimum that the clamp is. -/
theorem reference_rnd_clamp16 (v : ℝ) :
    (reference.rnd (reference.clamp16 v) : ℝ) = reference.clamp16 (reference.rnd v) := by
  have hlow : reference.rnd (-32768) = -32768 := mod_cast reference_rnd_intCast (-32768)
  have hhigh : reference.rnd 32767 = 32767 := mod_cast reference_rnd_intCast 32767
  rw [reference_clamp16_eq_max_min, reference_clamp16_eq_max_min, reference_rnd_monotone.map_max,
    reference_rnd_monotone.map_min, hlow, hhigh]
  push_cast
  rfl

/-- Settles O37: the clamp is a maximum of a minimum, through which the monotone `rnd` goes. -/
theorem clampRoundCommute : Obligations.ClampRoundCommute := fun v =>
  ⟨reference_clamp16_of_lt, reference_clamp16_of_gt, reference_clamp16_of_mem, reference_rnd_clamp16 v⟩

/-! ### The order of binary64 magnitudes -/

namespace F64

theorem magnitude_lt (x : F64) : x.magnitude < 2 ^ 52 * 2 ^ x.exponent.val := by
  have hf := x.fraction.isLt
  unfold magnitude significand
  split_ifs with he
  · simpa [he] using hf
  · obtain ⟨e, he'⟩ := Nat.exists_eq_succ_of_ne_zero he
    rw [he', Nat.succ_sub_one, pow_succ' 2 e, ← Nat.mul_assoc]
    exact Nat.mul_lt_mul_of_pos_right (by omega) (Nat.two_pow_pos e)

theorem le_magnitude {x : F64} (h : 0 < x.exponent.val) : 2 ^ 52 * 2 ^ (x.exponent.val - 1) ≤ x.magnitude := by
  unfold magnitude significand
  rw [if_neg h.ne']
  exact Nat.mul_le_mul_right _ (Nat.le_add_right _ _)

/-- The exponent decides first, the fraction second, as in a comparison of digits. -/
theorem magnitude_lt_of_magBits_lt {x y : F64} (h : x.magBits < y.magBits) : x.magnitude < y.magnitude := by
  have hx := x.fraction.isLt
  have hy := y.fraction.isLt
  unfold magBits at h
  rcases lt_trichotomy x.exponent.val y.exponent.val with he | he | he
  · calc x.magnitude < 2 ^ 52 * 2 ^ x.exponent.val := x.magnitude_lt
      _ ≤ 2 ^ 52 * 2 ^ (y.exponent.val - 1) := Nat.mul_le_mul_left _ (Nat.pow_le_pow_right two_pos (by omega))
      _ ≤ y.magnitude := le_magnitude (by omega)
  · have hs : x.significand < y.significand := by
      unfold significand
      rw [he]
      split_ifs <;> omega
    unfold magnitude
    rw [he]
    exact Nat.mul_lt_mul_of_pos_right hs (Nat.two_pow_pos _)
  · omega

theorem magnitude_eq_of_magBits_eq {x y : F64} (h : x.magBits = y.magBits) : x.magnitude = y.magnitude := by
  have hx := x.fraction.isLt
  have hy := y.fraction.isLt
  unfold magBits at h
  have he : x.exponent.val = y.exponent.val := by omega
  have hf : x.fraction.toNat = y.fraction.toNat := by omega
  unfold magnitude significand
  rw [he, hf]

theorem magnitude_le_of_magBits_le {x y : F64} (h : x.magBits ≤ y.magBits) : x.magnitude ≤ y.magnitude :=
  h.lt_or_eq.elim (fun hlt => (magnitude_lt_of_magBits_lt hlt).le) (fun heq => (magnitude_eq_of_magBits_eq heq).le)

theorem abs_toRat (x : F64) : |x.toRat| = x.magnitude / 2 ^ 1074 := by
  have hs : |(x.scaled : ℚ)| = x.magnitude := by
    unfold scaled
    split_ifs <;> simp
  rw [toRat, abs_div, hs, abs_of_pos (pow_pos two_pos 1074)]

theorem abs_toRat_le_of_magBits_le {x y : F64} (h : x.magBits ≤ y.magBits) : |x.toRat| ≤ |y.toRat| := by
  rw [abs_toRat, abs_toRat]
  exact div_le_div_of_nonneg_right (Nat.cast_le.2 (magnitude_le_of_magBits_le h)) (pow_pos two_pos 1074).le

/-- `magBits` orders magnitudes as their values do, which is what the model compares by. -/
theorem abs_toRat_lt_iff {x y : F64} : |x.toRat| < |y.toRat| ↔ x.magBits < y.magBits := by
  refine ⟨fun h => lt_of_not_ge fun hge => h.not_ge (abs_toRat_le_of_magBits_le hge), fun h => ?_⟩
  rw [abs_toRat, abs_toRat]
  exact div_lt_div_of_pos_right (Nat.cast_lt.2 (magnitude_lt_of_magBits_lt h)) (pow_pos two_pos 1074)

/-- The value of a positive normal number: its significand, over the power of two its exponent field leaves. -/
theorem toRat_of_pos_normal {x : F64} {j : Nat} (hneg : x.neg = false) (he : x.exponent.val ≠ 0)
    (hj : j + (x.exponent.val - 1) = 1074) : x.toRat = (2 ^ 52 + x.fraction.toNat) / 2 ^ j := by
  have hs : x.scaled = (2 ^ 52 + x.fraction.toNat) * 2 ^ (x.exponent.val - 1) := by
    simp [scaled, magnitude, significand, hneg, he]
  rw [toRat, hs, ← hj, pow_add]
  push_cast
  exact mul_div_mul_right _ _ (pow_pos two_pos _).ne'

/-! ### Snap -/

/-- The binary64 value just below `snapLimit`. -/
def belowSnapLimit : F64 := ⟨false, 0x3DD, 0xB7CDFD9D7BDBA⟩

theorem magBits_belowSnapLimit_succ : belowSnapLimit.magBits + 1 = snapLimit.magBits := rfl

theorem toRat_snapLimit : snapLimit.toRat = 0x1B7CDFD9D7BDBB / 2 ^ 86 := by
  have hf : snapLimit.fraction.toNat = 0xB7CDFD9D7BDBB := rfl
  rw [toRat_of_pos_normal (j := 86) rfl (by decide) rfl, hf]
  norm_num

theorem toRat_belowSnapLimit : belowSnapLimit.toRat = 0x1B7CDFD9D7BDBA / 2 ^ 86 := by
  have hf : belowSnapLimit.fraction.toNat = 0xB7CDFD9D7BDBA := rfl
  rw [toRat_of_pos_normal (j := 86) rfl (by decide) rfl, hf]
  norm_num

theorem abs_toRat_snapLimit : |snapLimit.toRat| = snapLimit.toRat := by
  rw [toRat_snapLimit]
  exact abs_of_pos (by norm_num)

theorem abs_toRat_lt_snapLimit_iff {x : F64} : |x.toRat| < snapLimit.toRat ↔ x.magBits < snapLimit.magBits := by
  rw [← abs_toRat_snapLimit, abs_toRat_lt_iff]

theorem snap_of_lt {x : F64} (h : |x.toRat| < snapLimit.toRat) : x.snap = zero :=
  if_pos (abs_toRat_lt_snapLimit_iff.1 h)

theorem snap_of_ge {x : F64} (h : snapLimit.toRat ≤ |x.toRat|) : x.snap = x :=
  if_neg fun hlt => h.not_gt (abs_toRat_lt_snapLimit_iff.2 hlt)

/-- The magnitudes of binary64 leave out what lies between `belowSnapLimit` and `snapLimit`. -/
theorem abs_toRat_le_belowSnapLimit_or_snapLimit_le (y : F64) :
    |y.toRat| ≤ belowSnapLimit.toRat ∨ snapLimit.toRat ≤ |y.toRat| := by
  rcases lt_or_ge |y.toRat| snapLimit.toRat with h | h
  · have hle : y.magBits ≤ belowSnapLimit.magBits := by
      rw [abs_toRat_lt_snapLimit_iff] at h
      have := magBits_belowSnapLimit_succ
      omega
    have hpos : 0 < belowSnapLimit.toRat := by
      rw [toRat_belowSnapLimit]
      norm_num
    exact .inl ((abs_toRat_le_of_magBits_le hle).trans_eq (abs_of_pos hpos))
  · exact .inr h

/-- 10^-10 lies between `belowSnapLimit` and `snapLimit`, nearer to the latter. -/
theorem snapLimit_nearest (y : F64) : |snapLimit.toRat - 1 / 10 ^ 10| ≤ |y.toRat - 1 / 10 ^ 10| := by
  have habove : (1 / 10 ^ 10 : ℚ) ≤ snapLimit.toRat := by
    rw [toRat_snapLimit]
    norm_num
  have hnearer : snapLimit.toRat - 1 / 10 ^ 10 ≤ 1 / 10 ^ 10 - belowSnapLimit.toRat := by
    rw [toRat_snapLimit, toRat_belowSnapLimit]
    norm_num
  calc |snapLimit.toRat - 1 / 10 ^ 10| = snapLimit.toRat - 1 / 10 ^ 10 := abs_of_nonneg (sub_nonneg.2 habove)
    _ ≤ |(|y.toRat|) - 1 / 10 ^ 10| := by
      rcases abs_toRat_le_belowSnapLimit_or_snapLimit_le y with h | h
      · exact le_abs.2 (.inr (by linarith))
      · exact le_abs.2 (.inl (by linarith))
    _ = |(|y.toRat|) - (|1 / 10 ^ 10|)| := by rw [abs_of_pos (by norm_num : (0 : ℚ) < 1 / 10 ^ 10)]
    _ ≤ |y.toRat - 1 / 10 ^ 10| := abs_abs_sub_abs_le _ _

end F64

theorem reference_snap_of_lt {v : ℝ} (h : |v| < 1 / 10 ^ 10) : reference.snap v = 0 := if_pos h

theorem reference_snap_of_ge {v : ℝ} (h : 1 / 10 ^ 10 ≤ |v|) : reference.snap v = v := if_neg h.not_gt

/-- Settles O38: the binary64 comparison by fields is the comparison of values, and no magnitude lies between
`belowSnapLimit` and `snapLimit`. -/
theorem snapRule : Obligations.SnapRule :=
  ⟨fun _ => ⟨reference_snap_of_lt, reference_snap_of_ge⟩, fun _ => ⟨F64.snap_of_lt, F64.snap_of_ge⟩,
    F64.snapLimit_nearest⟩

/-! ### Bit length -/

@[simp] theorem bitlen_zero : bitlen 0 = 0 := rfl

theorem bitlen_of_pos {a : Nat} (h : 0 < a) : bitlen a = Nat.log 2 a + 1 := by
  rw [bitlen, if_neg h.ne', Nat.log2_eq_log_two]

theorem lt_two_pow_bitlen (a : Nat) : a < 2 ^ bitlen a := by
  rcases a.eq_zero_or_pos with rfl | h
  · exact Nat.one_pos
  · rw [bitlen_of_pos h]
    exact Nat.lt_pow_succ_log_self Nat.one_lt_two a

theorem two_pow_bitlen_sub_one_le {a : Nat} (h : 0 < a) : 2 ^ (bitlen a - 1) ≤ a := by
  rw [bitlen_of_pos h]
  exact Nat.pow_log_le_self 2 h.ne'

/-- Settles O39: `bitlen` is one more than the exact logarithm, but for 0. -/
theorem bitLengthRule : Obligations.BitLengthRule := by
  refine ⟨bitlen_zero, fun a h => ⟨bitlen_of_pos h, two_pow_bitlen_sub_one_le h, lt_two_pow_bitlen a⟩, fun a => ?_⟩
  split_ifs with ha
  · rw [ha, bitlen_zero]
  · rw [bitlen_of_pos (Nat.pos_of_ne_zero ha)]

end Sys2Proof
end

section
/-!
The control registers as the host writes them (10_state.md R19, R24, R34, R35): what a CsrWrite at each index does, what
can clear FAULT, and the statements of that chapter.
-/

namespace Sys2Proof.Machine

variable {α : Type}

/-! ### A CsrWrite, by index -/

theorem State.csrWrite_busy {s : State α} (h : s.busy = true) (idx v : Word) : s.csrWrite idx v = s := if_pos h

section Idle

variable {s : State α} (h : s.busy = false) (v : Word)
include h

theorem State.csrWrite_ctrl : s.csrWrite 0 v = if v.getLsbD 0 then s.softReset else s := if_neg (ne_true_of_eq_false h)

theorem State.csrWrite_cmd : s.csrWrite 2 v = s.accept v := if_neg (ne_true_of_eq_false h)

theorem State.csrWrite_cfgN : s.csrWrite 4 v = { s with cfgN := v } := if_neg (ne_true_of_eq_false h)

theorem State.csrWrite_cfgM : s.csrWrite 5 v = { s with cfgM := v } := if_neg (ne_true_of_eq_false h)

theorem State.csrWrite_src0 : s.csrWrite 8 v = { s with src0 := v } := if_neg (ne_true_of_eq_false h)

theorem State.csrWrite_src1 : s.csrWrite 9 v = { s with src1 := v } := if_neg (ne_true_of_eq_false h)

theorem State.csrWrite_dst0 : s.csrWrite 10 v = { s with dst0 := v } := if_neg (ne_true_of_eq_false h)

theorem State.csrWrite_dst1 : s.csrWrite 11 v = { s with dst1 := v } := if_neg (ne_true_of_eq_false h)

theorem State.csrWrite_cnt : s.csrWrite 12 v = { s with cnt := v } := if_neg (ne_true_of_eq_false h)

end Idle

theorem State.csrWrite_ctrl_set {s : State α} (h : s.busy = false) {v : Word} (hv : v.getLsbD 0 = true) :
    s.csrWrite 0 v = s.softReset := (State.csrWrite_ctrl h v).trans (if_pos hv)

theorem State.csrWrite_ctrl_clear (s : State α) {v : Word} (hv : v.getLsbD 0 = false) : s.csrWrite 0 v = s := by
  cases hb : s.busy with
  | true => exact State.csrWrite_busy hb 0 v
  | false => exact (State.csrWrite_ctrl hb v).trans (if_neg (ne_true_of_eq_false hv))

/-- An index that names no register (R24). -/
def Unmapped (idx : Word) : Prop := idx = 6 ∨ idx = 7 ∨ 13 ≤ idx.toNat

theorem State.csrRead_unmapped (s : State α) {idx : Word} (h : Unmapped idx) : s.csrRead idx = 0 := by
  rcases h with rfl | rfl | h
  · rfl
  · rfl
  · obtain ⟨k, hk⟩ := Nat.exists_eq_add_of_le' h
    rw [State.csrRead, hk]
    rfl

theorem State.csrWrite_unmapped (s : State α) {idx : Word} (h : Unmapped idx) (v : Word) : s.csrWrite idx v = s := by
  cases hb : s.busy with
  | true => exact State.csrWrite_busy hb idx v
  | false =>
    refine (if_neg (ne_true_of_eq_false hb)).trans ?_
    rcases h with rfl | rfl | h
    · rfl
    · rfl
    · obtain ⟨k, hk⟩ := Nat.exists_eq_add_of_le' h
      rw [hk]
      rfl

/-! ### What can clear FAULT -/

@[simp] theorem State.accept_fault (w : Word) (s : State α) : (s.accept w).fault = s.fault := by
  unfold State.accept
  split <;> rfl

/-- Among the CsrWrites only the soft reset of an idle block touches FAULT. -/
theorem State.csrWrite_softResets_or_keeps_fault (s : State α) (idx v : Word) :
    (idx = 0 ∧ v.getLsbD 0 = true ∧ s.busy = false) ∨ (s.csrWrite idx v).fault = s.fault := by
  cases hb : s.busy with
  | true => exact .inr (by rw [State.csrWrite_busy hb])
  | false =>
    by_cases hidx : idx = 0
    · cases hv : v.getLsbD 0 with
      | true => exact .inl ⟨hidx, rfl, rfl⟩
      | false => exact .inr (by rw [hidx, State.csrWrite_ctrl_clear s hv])
    · refine .inr ?_
      rw [State.csrWrite, if_neg (ne_true_of_eq_false hb)]
      split
      · exact absurd (BitVec.eq_of_toNat_eq ‹idx.toNat = 0›) hidx
      · exact State.accept_fault v s
      all_goals rfl

/-- Among the host's transactions only the soft reset of an idle block touches FAULT. -/
theorem State.transact_softResets_or_keeps_fault [Inhabited α] (p : Params) (t : Txn α) (s : State α) :
    (∃ v, t = .csrWrite 0 v ∧ v.getLsbD 0 = true ∧ s.busy = false) ∨ (s.transact p t).fault = s.fault := by
  cases t with
  | csrWrite idx v =>
    rcases s.csrWrite_softResets_or_keeps_fault idx v with ⟨rfl, hv, hb⟩ | hf
    · exact .inl ⟨v, rfl, hv, hb⟩
    · exact .inr hf
  | csrRead | bufRead => exact .inr rfl
  | bufWriteR | bufWriteQ | bufWriteB =>
    refine .inr ?_
    rw [State.transact]
    split <;> rfl

/-- A command that completes keeps FAULT (R36). -/
theorem EffectOf.fault_eq {p : Params} {s t : State α} (h : EffectOf p s t) : t.fault = s.fault := by
  cases h <;> rfl

/-- The core's turn may set FAULT and never clears it. -/
theorem coreTurn_keeps_fault {s t : State} (h : s.fault = true) (ht : coreTurn s = .next t) : t.fault = true := by
  rcases coreTurn_cases s t ht with ⟨-, rfl⟩ | ⟨-, rfl⟩ | ⟨-, i, -, hi⟩
  · exact h
  · rfl
  · rcases exec_cases i s t hi with ⟨e, -, rfl⟩ | he
    · rfl
    · exact he.fault_eq.trans h

/-- Everything that can clear FAULT (R34). -/
theorem step_clears_fault {s t : State} (hs : s.fault = true) (h : step s = .next t) (ht : t.fault = false) :
    (∃ rest, s.turns = .hardwareReset :: rest) ∨
    ∃ v rest, s.turns = .host (.csrWrite 0 v) :: rest ∧ v.getLsbD 0 = true ∧ s.busy = false := by
  have hcleared : t.fault ≠ true := ne_true_of_eq_false ht
  match hturns : s.turns with
  | [] => exact absurd (coreTurn_keeps_fault hs (step_nil s hturns ▸ h)) hcleared
  | .core :: rest =>
    exact absurd (coreTurn_keeps_fault (s := { s with turns := rest }) hs (step_core s rest hturns ▸ h)) hcleared
  | .hardwareReset :: rest => exact .inl ⟨rest, rfl⟩
  | .host txn :: rest =>
    obtain rfl := Host.Outcome.next.inj ((step_host s txn rest hturns).symm.trans h)
    rcases State.transact_softResets_or_keeps_fault Config.params txn { s with turns := rest } with
      ⟨v, rfl, hv, hb⟩ | hf
    · exact .inr ⟨v, rest, rfl, hv, hb⟩
    · exact absurd (hf.trans hs) hcleared

end Sys2Proof.Machine

namespace Sys2Proof

open Machine

/-- Settles O10: an accepted soft reset by the rule for CTRL, and by cases on the turn nothing but the two resets clears
FAULT. -/
theorem softResetRule : Obligations.SoftResetRule :=
  ⟨fun _ _ hb hv => State.csrWrite_ctrl_set hb hv, fun _ v hb => State.csrWrite_busy hb 0 v,
    fun _ _ hs h ht => step_clears_fault hs h ht⟩

/-- Settles O16: a write to CMD is an acceptance, which BUSY and FAULT refuse. -/
theorem acceptanceRule : Obligations.AcceptanceRule := by
  refine fun s w => ⟨fun ⟨hb, hf⟩ => (State.csrWrite_cmd hb w).trans (s.accept_idle w hb hf), fun h => ?_⟩
  cases hb : s.busy with
  | true => exact State.csrWrite_busy hb 2 w
  | false => exact (State.csrWrite_cmd hb w).trans (s.accept_ignored w h)

/-- Settles O17: CTRL holds nothing to read, and a write to it is the soft reset only of an idle block and by bit 0. -/
theorem controlRegisterRule : Obligations.ControlRegisterRule := fun s v =>
  ⟨rfl, fun hb => State.csrWrite_busy hb 0 v, s.csrWrite_ctrl_clear, fun hb hv => State.csrWrite_ctrl_set hb hv⟩

/-- Settles O18: one equation per register, and the unmapped indices. -/
theorem registerIndexMap : Obligations.RegisterIndexMap := fun s =>
  ⟨rfl, rfl, rfl, rfl, rfl, rfl, rfl, rfl, rfl, rfl, rfl,
    fun _ v h => ⟨s.csrRead_unmapped h, s.csrWrite_unmapped h v⟩,
    fun v hb => ⟨State.csrWrite_cmd hb v, State.csrWrite_cfgN hb v, State.csrWrite_cfgM hb v,
      State.csrWrite_src0 hb v, State.csrWrite_src1 hb v, State.csrWrite_dst0 hb v, State.csrWrite_dst1 hb v,
      State.csrWrite_cnt hb v⟩⟩

end Sys2Proof
end

section
/-!
What a command reads and writes (20_memory.md R49, R53): each stage function reads its source units alone, and two
states that agree on a command's operands and source units are answered alike.
-/

namespace Sys2Proof

variable {α : Type} (nm : Numerics α)

/-! ### What a stage function reads -/

section Stages

variable {x y : Nat → α} {n c : Nat}

theorem frameOf_congr {samples : Nat} (h : ∀ e < samples, x e = y e) (i : Nat) :
    frameOf nm n samples x i = frameOf nm n samples y i := by
  simp only [frameOf]
  split_ifs with hp
  · exact h _ (by omega)
  · rfl

theorem windowOf_congr {i : Nat} (h : x i = y i) : windowOf nm n x i = windowOf nm n y i := by
  rw [windowOf, windowOf, h]

theorem pcmOf_congr {i : Nat} (h : x i = y i) : pcmOf nm x i = pcmOf nm y i := by
  rw [pcmOf, pcmOf, h]

section Matrix

variable {x' y' : Nat → α} {i : Nat} (h : x i = y i) (h' : x' i = y' i)
include h h'

theorem midOf_congr : midOf nm x x' i = midOf nm y y' i := by rw [midOf, midOf, h, h']

theorem sideOf_congr : sideOf nm x x' i = sideOf nm y y' i := by rw [sideOf, sideOf, h, h']

theorem leftOf_congr : leftOf nm x x' i = leftOf nm y y' i := by rw [leftOf, leftOf, h, h']

theorem rightOf_congr : rightOf nm x x' i = rightOf nm y y' i := by rw [rightOf, rightOf, h, h']

end Matrix

theorem mdctOf_congr (h : ∀ e < c * (2 * n), x e = y e) {i : Nat} (hi : i < c * n) :
    mdctOf nm n x i = mdctOf nm n y i := by
  obtain ⟨b, k, hb, hk, rfl⟩ := exists_block hi
  rw [mdctOf_block nm n x b hk, mdctOf_block nm n y b hk]
  exact nm.sum_congr fun j hj => by rw [h _ (block_lt hb hj)]

theorem imdctOf_congr (h : ∀ e < c * n, x e = y e) {i : Nat} (hi : i < c * (2 * n)) :
    imdctOf nm n x i = imdctOf nm n y i := by
  obtain ⟨b, j, hb, hj, rfl⟩ := exists_block hi
  rw [imdctOf, imdctOf, imdctRawOf_block nm n x b hj, imdctRawOf_block nm n y b hj,
    nm.sum_congr fun k hk => by rw [h _ (block_lt hb hk)]]

theorem quantOf_congr {k : Nat} (hk : k ≤ n) (h : ∀ e < c * n, x e = y e) {i : Nat} (hi : i < c * k) :
    quantOf nm n k x i = quantOf nm n k y i := by
  obtain ⟨b, j, hb, hj, rfl⟩ := exists_block hi
  rw [quantOf_block nm n k x b hj, quantOf_block nm n k y b hj, h _ (block_lt hb (hj.trans_le hk))]

theorem dequantOf_congr {q r : Nat → Int} {k : Nat} (h : ∀ e < c * k, q e = r e) {i : Nat} (hi : i < c * n) :
    dequantOf nm n k q i = dequantOf nm n k r i := by
  obtain ⟨b, j, hb, hj, rfl⟩ := exists_block hi
  rw [dequantOf_block nm n k q b hj, dequantOf_block nm n k r b hj]
  split_ifs with hk
  · rw [h _ (block_lt hb hk)]
  · rfl

theorem olaOf_congr (h : ∀ e < c * (2 * n), x e = y e) {i : Nat} (hi : i < olaLength n c) :
    olaOf nm n x i = olaOf nm n y i := by
  obtain ⟨b, j, hb, hj, rfl⟩ := exists_block hi
  have hleft : b * (2 * n) + n + j < c * (2 * n) := by
    rw [Nat.add_assoc]
    exact block_lt (by omega) (by omega)
  have hright : (b + 1) * (2 * n) + j < c * (2 * n) := block_lt (by omega) (by omega)
  rw [olaOf_block nm n x b hj, olaOf_block nm n y b hj, h _ hleft, h _ hright]

end Stages

section Stream

variable {src src' : Nat → Byte} {slen : Nat} (h : ∀ e < slen, src e = src' e)
include h

theorem streamBit_congr (t : Nat) : streamBit src slen t = streamBit src' slen t := by
  unfold streamBit
  split_ifs with ht
  · rw [h _ ht]
  · rfl

theorem readBits_congr (t w : Nat) : readBits src slen t w = readBits src' slen t w := by
  induction w with
  | zero => rfl
  | succ w ih => rw [readBits, readBits, ih, streamBit_congr h]

theorem readElement_congr (t : Nat) : readElement src slen t = readElement src' slen t := by
  simp only [readElement, readBits_congr h, streamBit_congr h]

theorem readElements_congr (count t : Nat) : readElements src slen count t = readElements src' slen count t := by
  induction count generalizing t with
  | zero => rfl
  | succ count ih => simp only [readElements, readElement_congr h, ih]

end Stream

end Sys2Proof

namespace Sys2Proof.Machine

/-! ### What a command keeps -/

theorem Kept.refl (s : State) : Kept s s := by
  unfold Kept
  simp only [and_self]

/-- A command that completes writes no register but RES (R53): no memory write and no flag is a field of `Kept`. -/
theorem EffectOf.kept {p : Params} {s t : State} (h : EffectOf p s t) : Kept s t := by
  cases h <;> exact Kept.refl s

/-! ### Two runs answered alike -/

theorem tabulate_congr {β : Type} {n : Nat} {f g : Nat → β} (h : ∀ i < n, f i = g i) : tabulate n f = tabulate n g :=
  List.map_congr_left fun i hi => h i (List.mem_range.1 hi)

/-- A unit of a written region has a value, the same whatever the memory held before. -/
theorem Memory.read_writeRegion_inside {β : Type} (vs : List β) (m₁ m₂ : List (Nat × β)) {base a : Nat}
    (h : base ≤ a ∧ a < base + vs.length) :
    (Memory.read (Memory.writeRegion base vs m₁) a).isSome ∧
      Memory.read (Memory.writeRegion base vs m₂) a = Memory.read (Memory.writeRegion base vs m₁) a := by
  rw [Memory.read_writeRegion, if_pos h, Memory.read_writeRegion, if_pos h, List.getElem?_eq_getElem (by omega)]
  exact ⟨rfl, rfl⟩

/-- What R49 says of two runs of one command, from `s₁` to `t₁` and from `s₂` to `t₂`: they take the same fault, or
complete with the same RES and the same units in the regions `written t₁`, the first having changed no other unit. -/
def AnsweredAlike (written : State → List (Space × Nat × Nat)) (s₁ s₂ t₁ t₂ : State) : Prop :=
  (∃ e, Faulted s₁ t₁ e ∧ Faulted s₂ t₂ e) ∨
  (Completed s₁ t₁ t₁.res.toNat ∧ Completed s₂ t₂ t₁.res.toNat ∧
    (∀ r ∈ written t₁, ∀ a, InTable r a → UnitWritten r.1 t₁ a ∧ UnitKept r.1 t₁ t₂ a) ∧
    ∀ (space : Space) (a : Nat), (∀ r ∈ written t₁, r.1 = space → ¬ InTable r a) → UnitKept space s₁ t₁ a)

/-- The state `u` with the configuration and the operand registers of `s`: `SameOperands s` as an equation, by which
whatever the checks look at in the two states is the same by definition. -/
def State.withOperandsOf (u s : State) : State :=
  { u with
    cfgN := s.cfgN, cfgM := s.cfgM, src0 := s.src0, src1 := s.src1, dst0 := s.dst0, dst1 := s.dst1, cnt := s.cnt }

theorem SameOperands.withOperandsOf_eq {s u : State} (h : SameOperands s u) : u.withOperandsOf s = u := by
  obtain ⟨hcfgN, hcfgM, hsrc0, hsrc1, hdst0, hdst1, hcnt⟩ := h
  rw [State.withOperandsOf, ← hcfgN, ← hcfgM, ← hsrc0, ← hsrc1, ← hdst0, ← hdst1, ← hcnt]

section Alike

variable {written : State → List (Space × Nat × Nat)} {s₁ s₂ : State}

theorem answeredAlike_raise (e : ErrCode) : AnsweredAlike written s₁ s₂ (s₁.raise e) (s₂.raise e) :=
  .inl ⟨e, rfl, rfl⟩

/-- The common checks fault alike, so it remains to compare the effects. -/
theorem answeredAlike_checked {p : Params} {o : Operands} {s u t₁ t₂ : State}
    (h : AnsweredAlike written s (u.withOperandsOf s) t₁ t₂) :
    AnsweredAlike written s (u.withOperandsOf s) (s.checked p o t₁) ((u.withOperandsOf s).checked p o t₂) := by
  have hsame : commonFault p o (u.withOperandsOf s) = commonFault p o s := rfl
  cases hf : commonFault p o s with
  | some e =>
    rw [State.checked_fault hf, State.checked_fault (hsame.trans hf)]
    exact answeredAlike_raise e
  | none => rwa [State.checked_pass hf, State.checked_pass (hsame.trans hf)]

/-- A further test that comes out alike. -/
theorem answeredAlike_ite {c : Prop} [Decidable c] {t₁ t₂ t₁' t₂' : State}
    (hpos : c → AnsweredAlike written s₁ s₂ t₁ t₂) (hneg : ¬ c → AnsweredAlike written s₁ s₂ t₁' t₂') :
    AnsweredAlike written s₁ s₂ (if c then t₁ else t₁') (if c then t₂ else t₂') := by
  split_ifs with h
  · exact hpos h
  · exact hneg h

/-- Completion after memory writes: it remains to compare the units written. -/
theorem answeredAlike_complete {u₁ u₂ : State} (res : Nat) (h₁ : Kept s₁ u₁) (h₂ : Kept s₂ u₂)
    (hin : ∀ r ∈ written (u₁.complete res), ∀ a, InTable r a → UnitWritten r.1 u₁ a ∧ UnitKept r.1 u₁ u₂ a)
    (hout : ∀ (space : Space) (a : Nat), (∀ r ∈ written (u₁.complete res), r.1 = space → ¬ InTable r a) →
      UnitKept space s₁ u₁ a) :
    AnsweredAlike written s₁ s₂ (u₁.complete res) (u₂.complete res) :=
  .inr ⟨⟨rfl, rfl, rfl, h₁⟩, ⟨rfl, rfl, rfl, h₂⟩, hin, hout⟩

/-- The case of one destination region. -/
theorem answeredAlike_complete_one {u₁ u₂ : State} {res : Nat} {r : Space × Nat × Nat} (h₁ : Kept s₁ u₁)
    (h₂ : Kept s₂ u₂) (hw : written (u₁.complete res) = [r])
    (hin : ∀ a, InTable r a → UnitWritten r.1 u₁ a ∧ UnitKept r.1 u₁ u₂ a)
    (hout : ∀ (space : Space) (a : Nat), (r.1 = space → ¬ InTable r a) → UnitKept space s₁ u₁ a) :
    AnsweredAlike written s₁ s₂ (u₁.complete res) (u₂.complete res) := by
  refine answeredAlike_complete res h₁ h₂ ?_ ?_ <;> simpa only [hw, List.forall_mem_singleton]

variable {base base' : Word} {res len : Nat}

theorem answeredAlike_writeR {vs₁ vs₂ : List F64} (hv : vs₂ = vs₁) (hlen : vs₁.length = len)
    (hw : written ((s₁.writeR base vs₁).complete res) = [(.rmem, base.toNat, len)]) :
    AnsweredAlike written s₁ s₂ ((s₁.writeR base vs₁).complete res) ((s₂.writeR base vs₂).complete res) := by
  subst hv hlen
  refine answeredAlike_complete_one (Kept.refl _) (Kept.refl _) hw
    (fun a ha => Memory.read_writeRegion_inside _ _ _ ha) fun space a ha => ?_
  cases space with
  | rmem => exact (Memory.read_writeRegion _ _ _ _).trans (if_neg (ha rfl))
  | qmem | bmem => rfl

/-- The commands with one destination in RMEM: it remains to compare what the stage function gives. -/
theorem answeredAlike_checked_writeR {p : Params} {o : Operands} {s u : State} {f g : Nat → F64}
    (h : ∀ i < len, g i = f i)
    (hw : written ((s.writeR base (tabulate len f)).complete res) = [(.rmem, base.toNat, len)]) :
    AnsweredAlike written s (u.withOperandsOf s) (s.checked p o ((s.writeR base (tabulate len f)).complete res))
      ((u.withOperandsOf s).checked p o (((u.withOperandsOf s).writeR base (tabulate len g)).complete res)) :=
  answeredAlike_checked (answeredAlike_writeR (tabulate_congr h) (length_tabulate _ _) hw)

theorem answeredAlike_writeQ_setUnderrun {zs₁ zs₂ : List Int} {b₁ b₂ : Bool} (hz : zs₂ = zs₁)
    (hlen : zs₁.length = len)
    (hw : written (((s₁.writeQ base zs₁).setUnderrun b₁).complete res) = [(.qmem, base.toNat, len)]) :
    AnsweredAlike written s₁ s₂ (((s₁.writeQ base zs₁).setUnderrun b₁).complete res)
      (((s₂.writeQ base zs₂).setUnderrun b₂).complete res) := by
  subst hz hlen
  rw [← List.length_map (BitVec.ofInt 32)] at hw
  refine answeredAlike_complete_one (Kept.refl _) (Kept.refl _) hw
    (fun a ha => Memory.read_writeRegion_inside _ _ _ ha) fun space a ha => ?_
  cases space with
  | qmem => exact (Memory.read_writeRegion _ _ _ _).trans (if_neg (ha rfl))
  | rmem | bmem => rfl

theorem answeredAlike_writeQ {zs₁ zs₂ : List Int} (hz : zs₂ = zs₁) (hlen : zs₁.length = len)
    (hw : written ((s₁.writeQ base zs₁).complete res) = [(.qmem, base.toNat, len)]) :
    AnsweredAlike written s₁ s₂ ((s₁.writeQ base zs₁).complete res) ((s₂.writeQ base zs₂).complete res) := by
  rw [← (s₁.writeQ base zs₁).setUnderrun_false] at hw ⊢
  rw [← (s₂.writeQ base zs₂).setUnderrun_false]
  exact answeredAlike_writeQ_setUnderrun hz hlen hw

theorem answeredAlike_writeB {bs₁ bs₂ : List Byte} {b₁ b₂ : Bool} (hb : bs₂ = bs₁)
    (hw : written (((s₁.writeB base bs₁).setTrunc b₁).complete res) = [(.bmem, base.toNat, bs₁.length)]) :
    AnsweredAlike written s₁ s₂ (((s₁.writeB base bs₁).setTrunc b₁).complete res)
      (((s₂.writeB base bs₂).setTrunc b₂).complete res) := by
  subst hb
  refine answeredAlike_complete_one (Kept.refl _) (Kept.refl _) hw
    (fun a ha => Memory.read_writeRegion_inside _ _ _ ha) fun space a ha => ?_
  cases space with
  | bmem => exact (Memory.read_writeRegion _ _ _ _).trans (if_neg (ha rfl))
  | rmem | qmem => rfl

/-- Two destination regions: a unit of the first that the second write does not touch is as the first left it. -/
theorem answeredAlike_writeR_writeR {vs₁ vs₂ ws₁ ws₂ : List F64} (hv : vs₂ = vs₁) (hws : ws₂ = ws₁)
    (hlen : vs₁.length = len) (hlen' : ws₁.length = len)
    (hw : written (((s₁.writeR base vs₁).writeR base' ws₁).complete res) =
      [(.rmem, base.toNat, len), (.rmem, base'.toNat, len)]) :
    AnsweredAlike written s₁ s₂ (((s₁.writeR base vs₁).writeR base' ws₁).complete res)
      (((s₂.writeR base vs₂).writeR base' ws₂).complete res) := by
  subst hv hws hlen
  refine answeredAlike_complete _ (Kept.refl _) (Kept.refl _) ?_ ?_
  · intro r hr a ha
    rw [hw] at hr
    rcases List.mem_pair.1 hr with rfl | rfl
    · by_cases hsecond : base'.toNat ≤ a ∧ a < base'.toNat + ws₂.length
      · exact Memory.read_writeRegion_inside _ _ _ hsecond
      · simp only [UnitWritten, UnitKept, State.writeR_rmem, Memory.read_writeRegion base'.toNat, if_neg hsecond]
        exact Memory.read_writeRegion_inside _ _ _ ha
    · exact Memory.read_writeRegion_inside _ _ _ (hlen' ▸ ha)
  · intro space a ha
    rw [hw, List.forall_mem_cons, List.forall_mem_singleton] at ha
    obtain ⟨hfirst, hsecond⟩ := ha
    cases space with
    | rmem =>
      exact ((Memory.read_writeRegion _ _ _ _).trans (if_neg (hlen' ▸ hsecond rfl))).trans
        ((Memory.read_writeRegion _ _ _ _).trans (if_neg (hfirst rfl)))
    | qmem | bmem => rfl

end Alike

/-! ### The sources -/

section Sources

variable {s t : State} {base : Word} {len : Nat}

theorem realsFrom_eq_of_sameUnits (h : ∀ a, InTable (.rmem, base.toNat, len) a → SameUnit .rmem s t a) :
    ∀ e < len, t.realsFrom base e = s.realsFrom base e :=
  fun _ he => (h _ ⟨Nat.le_add_right _ _, Nat.add_lt_add_left he _⟩).symm

theorem intsFrom_eq_of_sameUnits (h : ∀ a, InTable (.qmem, base.toNat, len) a → SameUnit .qmem s t a) :
    ∀ e < len, t.intsFrom base e = s.intsFrom base e :=
  fun _ he => congrArg BitVec.toInt (h _ ⟨Nat.le_add_right _ _, Nat.add_lt_add_left he _⟩).symm

theorem bytesFrom_eq_of_sameUnits (h : ∀ a, InTable (.bmem, base.toNat, len) a → SameUnit .bmem s t a) :
    ∀ e < len, t.bytesFrom base e = s.bytesFrom base e :=
  fun _ he => (h _ ⟨Nat.le_add_right _ _, Nat.add_lt_add_left he _⟩).symm

end Sources

/-- RES holds the length of what PACK writes: BMEM is smaller than 2^32 bytes. -/
theorem writtenTable_pack_complete {s u : State} {base : Word} {len n m : Nat}
    (hfit : (region .bmem base len).InBounds Config.params) :
    writtenTable .pack s (u.complete len) n m = [(.bmem, s.dst0.toNat, len)] := by
  have hlen : len < 2 ^ 32 := by
    have hsize : spaceUnits Config.params .bmem = 2 ^ 22 := rfl
    simp only [Region.InBounds, region, hsize] at hfit
    omega
  simp only [writtenTable, if_true, State.complete_res, BitVec.toNat_ofNat, Nat.mod_eq_of_lt hlen]

/-- Any command on two states with the same operands and the same source units. -/
theorem exec_answeredAlike (i : Instr) {s u t₁ t₂ : State}
    (hsrc : ∀ r ∈ sourceTable i s s.n s.m, ∀ a, InTable r a → SameUnit r.1 s (u.withOperandsOf s) a)
    (h₁ : exec i s = .next t₁) (h₂ : exec i (u.withOperandsOf s) = .next t₂) :
    AnsweredAlike (writtenTable i s · s.n s.m) s (u.withOperandsOf s) t₁ t₂ := by
  cases i <;> obtain rfl := Host.Outcome.next.inj h₁ <;> obtain rfl := Host.Outcome.next.inj h₂
  case frame =>
    have hx := realsFrom_eq_of_sameUnits (hsrc _ (List.mem_singleton_self _))
    exact answeredAlike_checked_writeR (fun i _ => frameOf_congr _ hx i) rfl
  case wina | wins =>
    have hx := realsFrom_eq_of_sameUnits (hsrc _ (List.mem_singleton_self _))
    exact answeredAlike_checked_writeR (fun i hi => windowOf_congr _ (hx i hi)) rfl
  case mdct =>
    have hx := realsFrom_eq_of_sameUnits (hsrc _ (List.mem_singleton_self _))
    exact answeredAlike_checked_writeR (fun i hi => mdctOf_congr _ hx hi) rfl
  case imdct =>
    have hx := realsFrom_eq_of_sameUnits (hsrc _ (List.mem_singleton_self _))
    exact answeredAlike_checked_writeR (fun i hi => imdctOf_congr _ hx hi) rfl
  case ola =>
    have hx := realsFrom_eq_of_sameUnits (hsrc _ (List.mem_singleton_self _))
    exact answeredAlike_checked_writeR (fun i hi => olaOf_congr _ hx hi) rfl
  case dequant =>
    have hq := intsFrom_eq_of_sameUnits (hsrc _ (List.mem_singleton_self _))
    exact answeredAlike_checked_writeR (fun i hi => dequantOf_congr _ hq hi) rfl
  case msfwd =>
    have hx := realsFrom_eq_of_sameUnits (hsrc _ List.mem_cons_self)
    have hy := realsFrom_eq_of_sameUnits (hsrc _ (List.mem_cons_of_mem _ (List.mem_singleton_self _)))
    exact answeredAlike_checked (answeredAlike_writeR_writeR
      (tabulate_congr fun i hi => midOf_congr _ (hx i hi) (hy i hi))
      (tabulate_congr fun i hi => sideOf_congr _ (hx i hi) (hy i hi))
      (length_tabulate _ _) (length_tabulate _ _) rfl)
  case msinv =>
    have hx := realsFrom_eq_of_sameUnits (hsrc _ List.mem_cons_self)
    have hy := realsFrom_eq_of_sameUnits (hsrc _ (List.mem_cons_of_mem _ (List.mem_singleton_self _)))
    exact answeredAlike_checked (answeredAlike_writeR_writeR
      (tabulate_congr fun i hi => leftOf_congr _ (hx i hi) (hy i hi))
      (tabulate_congr fun i hi => rightOf_congr _ (hx i hi) (hy i hi))
      (length_tabulate _ _) (length_tabulate _ _) rfl)
  case pcmout =>
    have hx := realsFrom_eq_of_sameUnits (hsrc _ (List.mem_singleton_self _))
    exact answeredAlike_checked (answeredAlike_writeQ (tabulate_congr fun i hi => pcmOf_congr _ (hx i hi))
      (length_tabulate _ _) rfl)
  case unpack =>
    have hb := bytesFrom_eq_of_sameUnits (hsrc _ (List.mem_singleton_self _))
    have he := readElements_congr hb s.count 0
    exact answeredAlike_checked (answeredAlike_writeQ_setUnderrun (congrArg (fun r => r.1.map decodeElement) he)
      (length_unpackInts _ _ _) rfl)
  case quant =>
    have hx := realsFrom_eq_of_sameUnits (hsrc _ (List.mem_singleton_self _))
    have hz : quantInts binary64 (u.withOperandsOf s) = quantInts binary64 s :=
      tabulate_congr fun i hi => quantOf_congr _ (Nat.sub_le _ _) hx hi
    rw [quantOn, quantOn, hz]
    exact answeredAlike_checked (answeredAlike_ite (fun _ => answeredAlike_writeQ rfl (length_tabulate _ _) rfl)
      fun _ => answeredAlike_raise .range)
  case pack =>
    have hq := intsFrom_eq_of_sameUnits (hsrc _ (List.mem_singleton_self _))
    have hz : packInts (u.withOperandsOf s) = packInts s := tabulate_congr hq
    have hb : packedBytes (u.withOperandsOf s) = packedBytes s := congrArg packBytes hz
    rw [packOn, packOn, hb]
    exact answeredAlike_checked (answeredAlike_ite
      (fun hfit => answeredAlike_writeB rfl (writtenTable_pack_complete hfit)) fun _ => answeredAlike_raise .bounds)

end Sys2Proof.Machine

namespace Sys2Proof

open Machine

/-- Settles O13: a fault changes BUSY, FAULT and ERRCODE alone, and a completion keeps the registers too. -/
theorem commandKeepsControl : Obligations.CommandKeepsControl := by
  intro i s t h
  rcases exec_cases i s t h with ⟨e, -, rfl⟩ | heffect
  · exact ⟨rfl, rfl, rfl, rfl, rfl, rfl, rfl, rfl⟩
  · obtain ⟨-, -, hcmd, hcfgN, hcfgM, hsrc0, hsrc1, hdst0, hdst1, hcnt, -⟩ := heffect.kept
    exact ⟨hcmd, hcfgN, hcfgM, hsrc0, hsrc1, hdst0, hdst1, hcnt⟩

/-- Settles O14: with the same operands the checks come out alike, and every stage function reads its source units
alone, so the two commands write the same values to the same places. -/
theorem commandIsFunctionOfSources : Obligations.CommandIsFunctionOfSources := by
  intro i s₁ s₂ t₁ t₂ n m hc hs hsrc h₁ h₂
  obtain ⟨-, rfl, rfl, -⟩ := configuredAs_valid hc
  rw [← hs.withOperandsOf_eq] at hsrc h₂ ⊢
  exact exec_answeredAlike i hsrc h₁ h₂

end Sys2Proof
end

section
/-!
The framer's block count and the window (41_frame_window.md R78, R81): the window factor of the reference instance as the
sine of an angle, with the symmetries of that angle, and what a FRAME that does not fault leaves in RES.
-/

namespace Sys2Proof

/-! ### The window angle -/

/-- The angle whose sine is the window factor (R14). -/
noncomputable def windowAngle (n j : Nat) : ℝ := Real.pi / (2 * n) * (j + 1 / 2)

theorem reference_win (n j : Nat) : reference.win n j = Real.sin (windowAngle n j) := rfl

section Angle

variable {n j : Nat}

/-- N entries further, the sine has become the cosine. -/
theorem windowAngle_half_add (hn : 1 ≤ n) : windowAngle n (n + j) = windowAngle n j + Real.pi / 2 := by
  unfold windowAngle
  push_cast
  field_simp
  ring

/-- The angles of a block and those of its reversal are supplementary. -/
theorem windowAngle_reversed (hj : j < 2 * n) : windowAngle n (2 * n - 1 - j) = Real.pi - windowAngle n j := by
  have hn0 : (n : ℝ) ≠ 0 := Nat.cast_ne_zero.2 (by omega)
  have hcast : ((2 * n - 1 - j : Nat) : ℝ) = 2 * n - 1 - j := by
    rw [Nat.sub_sub, Nat.cast_sub (by omega)]
    push_cast
    ring
  unfold windowAngle
  rw [hcast]
  field_simp
  ring

theorem windowAngle_pos (hn : 1 ≤ n) : 0 < windowAngle n j := by
  unfold windowAngle
  positivity

/-- In a block the angle stays below π, because the angle of the reversed entry is positive too. -/
theorem windowAngle_lt_pi (hn : 1 ≤ n) (hj : j < 2 * n) : windowAngle n j < Real.pi := by
  have hrev : 0 < Real.pi - windowAngle n j := windowAngle_reversed hj ▸ windowAngle_pos hn
  linarith

end Angle

/-- Settles O41: sin² + cos² = 1 half a block apart, sin (π - x) = sin x for the reversal, and a sine between 0 and π. -/
theorem windowLaw : Obligations.WindowLaw := by
  intro n j hn
  simp only [reference_win]
  refine ⟨fun _ => ?_, fun hj => ⟨?_, ?_, Real.sin_le_one _⟩⟩
  · rw [windowAngle_half_add hn, Real.sin_add_pi_div_two, Real.sin_sq_add_cos_sq]
  · rw [windowAngle_reversed hj, Real.sin_pi_sub]
  · exact Real.sin_pos_of_pos_of_lt_pi (windowAngle_pos hn) (windowAngle_lt_pi hn hj)

/-! ### The block count -/

/-- D0's formula: the N zeros on each side lengthen the stream by two steps of N. -/
theorem blockCount_eq_padded (samples : Nat) {n : Nat} (hn : 1 ≤ n) :
    blockCount n samples = (samples + 2 * n) / n - 1 := by
  rw [Nat.add_mul_div_right samples 2 hn]
  rfl

end Sys2Proof

namespace Sys2Proof.Machine

/-- A FRAME that leaves FAULT clear passed its checks: its destination fits, and it completed. -/
theorem frame_completed {s t : State} (h : exec .frame s = .next t) (hf : t.fault = false) :
    (region .rmem s.dst0 (blockCount s.n s.count * (2 * s.n))).InBounds Config.params ∧
      t = (s.writeR s.dst0 (frameWords binary64 s)).complete (blockCount s.n s.count) := by
  obtain rfl : frameOn Config.params binary64 s = t := Host.Outcome.next.inj h
  rcases State.checked_cases Config.params (frameOperands s) s
    ((s.writeR s.dst0 (frameWords binary64 s)).complete (blockCount s.n s.count)) with
    ⟨e, -, -, hraise⟩ | ⟨-, -, hbounds, -, heffect⟩
  · rw [frameOn, hraise] at hf
    cases hf
  · exact ⟨((Operands.oneByOne_inBounds _ _ _).1 hbounds).2, heffect⟩

/-- Blocks that fit in RMEM are so few that RES holds their number. -/
theorem blockCount_lt_of_inBounds {base : Word} {n samples : Nat} (hn : 1 ≤ n)
    (h : (region .rmem base (blockCount n samples * (2 * n))).InBounds Config.params) :
    blockCount n samples < 2 ^ 32 := by
  have hle : blockCount n samples ≤ blockCount n samples * (2 * n) := Nat.le_mul_of_pos_right _ (by omega)
  have hsize : spaceUnits Config.params .rmem = 2 ^ 20 := rfl
  simp only [Region.InBounds, region, hsize] at h
  omega

end Sys2Proof.Machine

namespace Sys2Proof

open Machine

/-- Settles O42: the padding gives D0's formula, and RES holds the count because the blocks fit in RMEM. -/
theorem blockCountLaw : Obligations.BlockCountLaw := by
  refine ⟨fun n samples hn => blockCount_eq_padded samples hn, fun s t n m hc h hf => ?_⟩
  obtain ⟨-, rfl, -, -⟩ := configuredAs_valid hc
  obtain ⟨-, -, hn, -, -⟩ := hc
  obtain ⟨hfits, rfl⟩ := frame_completed h hf
  rw [State.complete_res, BitVec.toNat_ofNat, Nat.mod_eq_of_lt (blockCount_lt_of_inBounds hn hfits)]
  exact blockCount_eq_padded s.cnt.toNat hn

end Sys2Proof
end

section
/-!
The quantizer law (43_quantizer.md R91): how far rounding moves a coefficient, and what QUANT and DEQUANT do one after the
other to each entry of a block.
-/

namespace Sys2Proof

/-- `rnd` moves a value by at most a half (R11): it is Mathlib's `round` of the magnitude, with the sign put back. -/
theorem abs_reference_rnd_sub_le (v : ℝ) : |(reference.rnd v : ℝ) - v| ≤ 1 / 2 := by
  rcases le_or_gt 0 v with hv | hv
  · rw [reference_rnd_of_nonneg hv, ← round_eq, abs_sub_comm]
    exact abs_sub_round v
  · rw [reference_rnd_of_neg hv, ← round_eq, Int.cast_neg, neg_sub_comm]
    exact abs_sub_round (-v)

section Roundtrip

variable {α : Type} (nm : Numerics α) (n : Nat)

/-- DEQUANT finds the rounded coefficient at each kept entry, because QUANT packs the k kept entries of a block where
DEQUANT looks for them; at a dropped entry it looks for none. -/
theorem dequantOf_quantOf_block (k : Nat) (x : Nat → α) (b : Nat) {j : Nat} (h : j < n) :
    dequantOf nm n k (quantOf nm n k x) (b * n + j) =
      if j < k then nm.ofInt (nm.rnd (x (b * n + j))) else nm.zero := by
  rw [dequantOf_block nm n k _ b h]
  split
  case isTrue hkept => rw [quantOf_block nm n k x b hkept]
  case isFalse => rfl

/-- QUANT reads the kept entries alone, and DEQUANT has widened those. -/
theorem quantOf_dequantOf_block {k : Nat} (hk : k ≤ n) (q : Nat → Int) (b : Nat) {j : Nat} (h : j < k) :
    quantOf nm n k (dequantOf nm n k q) (b * k + j) = nm.rnd (nm.ofInt (q (b * k + j))) := by
  rw [quantOf_block nm n k _ b h, dequantOf_block nm n k q b (h.trans_le hk), if_pos h]

end Roundtrip

/-- Settles O48: both round trips on the first block, with `rnd` within a half of its argument and the identity on
integers. -/
theorem quantizerLaw : Obligations.QuantizerLaw := by
  intro n m c q _ _
  have hk : n - m ≤ n := Nat.sub_le n m
  have roundtrip (j : Nat) (hj : j < n) : dequantOf reference n (n - m) (quantOf reference n (n - m) c) j =
      if j < n - m then (reference.rnd (c j) : ℝ) else 0 := by
    simpa only [Nat.zero_mul, Nat.zero_add, reference_ofInt, reference_zero] using
      dequantOf_quantOf_block reference n (n - m) c 0 hj
  refine ⟨fun j hj => ?_, fun j hdropped hj => ?_, fun j hj => ?_⟩
  · rw [roundtrip j (hj.trans_le hk), if_pos hj]
    exact ⟨rfl, abs_reference_rnd_sub_le (c j)⟩
  · rw [roundtrip j hj, if_neg hdropped.not_gt]
  · simpa only [Nat.zero_mul, Nat.zero_add, reference_ofInt, reference_rnd_intCast] using
      quantOf_dequantOf_block reference n hk q 0 hj

end Sys2Proof
end

section
/-!
The element code as a stream of bits (30_encoding.md R64, R65; 45_entropy.md R98, R101, R102, R105, R106): what the
reader finds past the end of a stream and where a list of bits stands in it, and how wide the encoder writes an integer.
-/

namespace Sys2Proof

/-! ### Reading a stream -/

section Reading

variable {src : Nat → Byte} {slen : Nat}

theorem streamBit_past_end {t : Nat} (h : 8 * slen ≤ t) : streamBit src slen t = false := if_neg (by omega)

theorem readBits_past_end {t : Nat} (h : 8 * slen ≤ t) (w : Nat) : readBits src slen t w = 0 := by
  induction w with
  | zero => rfl
  | succ w ih => rw [readBits, ih, streamBit_past_end (Nat.le_add_right_of_le h)]; rfl

theorem readElement_past_end {t : Nat} (h : 8 * slen ≤ t) : readElement src slen t = ⟨0, false, 0⟩ := by
  have hend (k : Nat) : 8 * slen ≤ t + k := Nat.le_add_right_of_le h
  simp only [readElement, readBits_past_end h, readBits_past_end (hend 6), streamBit_past_end (hend 5)]

/-- A field of `a + b` bits is the field of its first `a` bits, moved up, and the field of the other `b`. -/
theorem readBits_add (src : Nat → Byte) (slen t a b : Nat) :
    readBits src slen t (a + b) = readBits src slen t a * 2 ^ b + readBits src slen (t + a) b := by
  induction b with
  | zero => rw [Nat.add_zero, readBits, Nat.pow_zero, Nat.mul_one, Nat.add_zero]
  | succ b ih => rw [← Nat.add_assoc, readBits, ih, readBits, Nat.pow_succ, Nat.add_assoc t]; ring

/-- A field that straddles the end of the stream is its real bits followed by zeros (R101). -/
theorem readBits_straddling {t w : Nat} (h : t ≤ 8 * slen) (hw : 8 * slen ≤ t + w) :
    readBits src slen t w = readBits src slen t (8 * slen - t) * 2 ^ (w - (8 * slen - t)) := by
  obtain ⟨b, rfl⟩ := Nat.exists_eq_add_of_le (show 8 * slen - t ≤ w by omega)
  have hend : 8 * slen ≤ t + (8 * slen - t) := by omega
  rw [readBits_add, readBits_past_end hend, Nat.add_zero, Nat.add_sub_cancel_left]

end Reading

/-- Settles O58: past the end every bit is 0, so a field is cut into its real bits and zeros; the two examples
are computed. -/
theorem underrunLaw : Obligations.UnderrunLaw := by
  intro src slen t
  refine ⟨fun h => ?_, fun w => readBits_straddling, by decide, by decide⟩
  have hzero : readElement src slen t = ⟨0, false, 0⟩ := readElement_past_end h
  exact ⟨hzero, by rw [hzero]; rfl, fun count => by rw [readElements, hzero]; rfl⟩

/-! ### A list of bits in a stream -/

/-- The bits `bits` stand in the stream from position `t` on. -/
def StreamHolds (src : Nat → Byte) (slen t : Nat) (bits : List Bool) : Prop :=
  ∀ i < bits.length, streamBit src slen (t + i) = bits.getD i false

section Holding

variable {src : Nat → Byte} {slen t : Nat}

theorem StreamHolds.append {bits bits' : List Bool} (h : StreamHolds src slen t (bits ++ bits')) :
    StreamHolds src slen t bits ∧ StreamHolds src slen (t + bits.length) bits' := by
  refine ⟨fun i hi => ?_, fun i hi => ?_⟩
  · rw [h i (by rw [List.length_append]; omega), List.getD_append _ _ _ _ hi]
  · rw [Nat.add_assoc, h _ (by rw [List.length_append]; omega), List.getD_append_right _ _ _ _ (by omega),
      Nat.add_sub_cancel_left]

/-- Where the field of `f` stands the reader finds `f`, cut to the width of the field (R65, R101). -/
theorem readBits_of_holds {w f : Nat} (h : StreamHolds src slen t (fieldBits w f)) :
    readBits src slen t w = f % 2 ^ w := by
  have hbit (i : Nat) (hi : i < w) : streamBit src slen (t + i) = f.testBit (w - 1 - i) := by
    rw [h i (by rwa [length_fieldBits]), List.getD_eq_getElem?_getD, getElem?_fieldBits, if_pos hi, Option.getD_some]
  clear h
  induction w generalizing f with
  | zero => rw [readBits, Nat.pow_zero, Nat.mod_one]
  | succ w ih =>
    have hhigh : readBits src slen t w = f / 2 % 2 ^ w := ih fun i hi => by
      rw [hbit i (by omega), ← Nat.testBit_succ]
      congr 1
      omega
    have hlast : (streamBit src slen (t + w)).toNat = f % 2 := by
      rw [hbit w (by omega), Nat.add_sub_cancel, Nat.sub_self, Nat.toNat_testBit, Nat.pow_zero, Nat.div_one]
    rw [readBits, hhigh, hlast, Nat.pow_succ', Nat.mod_mul, Nat.add_comm]

/-- Where the bits of a well-formed element stand the reader finds that element. -/
theorem readElement_of_holds {e : Element} (hwf : e.wf) (h : StreamHolds src slen t e.bits) :
    readElement src slen t = e := by
  obtain ⟨hhead, hmag⟩ := h.append
  obtain ⟨hnb, hsg⟩ := hhead.append
  have hnb' : readBits src slen t 5 = e.nb := by rw [readBits_of_holds hnb, Nat.mod_eq_of_lt hwf.1]
  have hsg' : streamBit src slen (t + 5) = e.sg := by simpa using hsg 0 Nat.one_pos
  have hmag' : readBits src slen (t + 6) e.nb = e.mag := by
    rw [List.length_append, length_fieldBits, List.length_singleton] at hmag
    rw [readBits_of_holds hmag, Nat.mod_eq_of_lt hwf.2]
  simp only [readElement, hnb', hsg', hmag']

end Holding

/-! ### The width of an encoded integer -/

theorem bitlen_le_iff (a w : Nat) : bitlen a ≤ w ↔ a < 2 ^ w := by
  rcases a.eq_zero_or_pos with rfl | ha
  · simp
  · rw [bitlen_of_pos ha, Nat.succ_le_iff, Nat.log_lt_iff_lt_pow Nat.one_lt_two ha.ne']

theorem encodeElement_nb (v : Int) : (encodeElement v).nb = min (bitlen v.natAbs + 1) 16 := rfl

theorem encodeElement_nb_mem (v : Int) : 1 ≤ (encodeElement v).nb ∧ (encodeElement v).nb ≤ 16 := by
  rw [encodeElement_nb]
  omega

theorem encodeElement_wf (v : Int) : (encodeElement v).wf :=
  ⟨(encodeElement_nb_mem v).2.trans_lt (by decide), Nat.mod_lt _ (Nat.two_pow_pos _)⟩

/-- A magnitude below 2^16 fits the width the encoder gives it, clamped or not (R98). -/
theorem encodeElement_mag {v : Int} (h : |v| ≤ 65535) : (encodeElement v).mag = v.natAbs := by
  refine Nat.mod_eq_of_lt ?_
  rcases min_choice (bitlen v.natAbs + 1) 16 with hw | hw <;> rw [hw]
  · exact (bitlen_le_iff _ _).1 (Nat.le_succ _)
  · rw [Int.abs_eq_natAbs] at h
    omega

theorem decodeElement_encodeElement {v : Int} (h : |v| ≤ 65535) : decodeElement (encodeElement v) = v := by
  rw [decodeElement, encodeElement_mag h]
  simp only [encodeElement, decide_eq_true_eq]
  omega

/-- The bits of `n` elements are between `7 n` and `22 n` (R106). -/
theorem length_streamBits_mem (vs : List Int) :
    7 * vs.length ≤ (streamBits vs).length ∧ (streamBits vs).length ≤ 22 * vs.length := by
  induction vs with
  | nil => exact ⟨le_rfl, le_rfl⟩
  | cons v vs ih =>
    have hnb := encodeElement_nb_mem v
    rw [streamBits_cons, List.length_append, List.length_cons, Element.length_bits]
    omega

/-- Settles O57: an element is 6 bits and its width, which the clamp holds between 1 and 16. -/
theorem elementSizes : Obligations.ElementSizes := by
  refine ⟨fun v => ?_, fun vs => ?_⟩
  · rw [Element.length_bits, encodeElement_nb, Int.abs_eq_natAbs]
    have hclamp : bitlen v.natAbs ≤ 15 ↔ v.natAbs < 2 ^ 15 := bitlen_le_iff _ _
    refine ⟨?_, fun _ _ => by omega, fun _ => by omega⟩
    rintro rfl
    rfl
  · have hbits := length_streamBits_mem vs
    rw [length_packBytes]
    omega

end Sys2Proof
end

section
/-!
The round trip of PACK and UNPACK (45_entropy.md R99, R103): the bytes of a block hold its bits, the reader finds every
element among them, and the two commands therefore give a vector of small magnitudes back.
-/

namespace Sys2Proof

/-! ### Bits in bytes -/

/-- The bits of a number put together most significant first. -/
theorem testBit_foldl_bits (g : Nat → Bool) (w : Nat) {j : Nat} (h : j < w) :
    ((List.range w).foldl (fun acc i => 2 * acc + (g i).toNat) 0).testBit j = g (w - 1 - j) := by
  induction w generalizing j with
  | zero => omega
  | succ w ih =>
    rw [List.range_succ, List.foldl_concat, ← Nat.bit_val]
    cases j with
    | zero => rw [Nat.testBit_bit_zero, Nat.sub_zero, Nat.add_sub_cancel]
    | succ j =>
      rw [Nat.testBit_bit_succ, ih (by omega)]
      congr 1
      omega

/-- The first of a byte's stream bits is its bit 7 (R40). -/
theorem getLsbD_byteOfBits (bits : List Bool) {k : Nat} (h : k < 8) :
    (byteOfBits bits).getLsbD (7 - k) = bits.getD k false := by
  rw [byteOfBits, BitVec.getLsbD_ofNat, testBit_foldl_bits _ 8 (by omega), decide_eq_true (by omega), Bool.true_and]
  congr 1
  omega

theorem getD_bytesOfBits {l i : Nat} (h : i < l) (bits : List Bool) :
    (bytesOfBits l bits).getD i 0 = byteOfBits ((bits.drop (8 * i)).take 8) := by
  induction l generalizing bits i with
  | zero => omega
  | succ l ih =>
    cases i with
    | zero => rfl
    | succ i => rw [bytesOfBits, List.getD_cons_succ, ih (by omega), List.drop_drop, Nat.mul_succ, Nat.add_comm]

/-- The bytes of a block hold the bits it was made from, wherever at least its bytes are available (R99). -/
theorem streamHolds_packBytes {src : Nat → Byte} {slen : Nat} {vs : List Int} (hlen : (packBytes vs).length ≤ slen)
    (hsrc : ∀ i < (packBytes vs).length, src i = (packBytes vs).getD i 0) : StreamHolds src slen 0 (streamBits vs) := by
  intro t ht
  have hbyte : t / 8 < (packBytes vs).length := by rw [length_packBytes]; omega
  have hmod : t % 8 < 8 := Nat.mod_lt _ (by decide)
  rw [Nat.zero_add, streamBit, if_pos (hbyte.trans_le hlen), hsrc _ hbyte, packBytes,
    getD_bytesOfBits (by rwa [length_packBytes] at hbyte), getLsbD_byteOfBits _ hmod,
    List.getD_eq_getElem?_getD, List.getElem?_take_of_lt hmod, List.getElem?_drop, Nat.div_add_mod,
    ← List.getD_eq_getElem?_getD]

/-- Where the bits of a vector stand the reader finds its elements, one after the other, and stops at their end. -/
theorem readElements_of_holds {src : Nat → Byte} {slen t : Nat} {vs : List Int}
    (h : StreamHolds src slen t (streamBits vs)) :
    readElements src slen vs.length t = (vs.map encodeElement, t + (streamBits vs).length) := by
  induction vs generalizing t with
  | nil => rfl
  | cons v vs ih =>
    obtain ⟨hfirst, hrest⟩ := h.append
    rw [Element.length_bits, ← Nat.add_assoc] at hrest
    rw [List.length_cons, readElements, readElement_of_holds (encodeElement_wf v) hfirst, ih hrest, streamBits_cons,
      List.length_append, Element.length_bits, List.map_cons]
    simp only [Nat.add_assoc]

/-- Reading a block's elements gives its vector back where no magnitude exceeds 16 bits (R103). -/
theorem unpackInts_of_holds {src : Nat → Byte} {slen : Nat} {vs : List Int}
    (h : StreamHolds src slen 0 (streamBits vs)) (hsmall : ∀ v ∈ vs, |v| ≤ 65535) :
    unpackInts src slen vs.length = vs := by
  rw [unpackInts, readElements_of_holds h, List.map_map]
  exact (List.map_congr_left fun v hv => decodeElement_encodeElement (hsmall v hv)).trans (List.map_id vs)

theorem unpackEnd_of_holds {src : Nat → Byte} {slen : Nat} {vs : List Int}
    (h : StreamHolds src slen 0 (streamBits vs)) : unpackEnd src slen vs.length = (streamBits vs).length := by
  rw [unpackEnd, readElements_of_holds h, Nat.zero_add]

end Sys2Proof

namespace Sys2Proof.Machine

/-! ### The two commands -/

/-- The elements of a block end within its bytes, so reading them is no underrun (R108). -/
theorem underruns_streamBits {slen : Nat} {vs : List Int} (h : (packBytes vs).length ≤ slen) :
    underruns slen (streamBits vs).length = false := by
  rw [length_packBytes] at h
  exact decide_eq_false (by omega)

theorem truncates_of_small {vs : List Int} (hsmall : ∀ v ∈ vs, |v| ≤ 65535) : truncates vs = false := by
  refine List.any_eq_false.2 fun v hv => ?_
  have hle := hsmall v hv
  rw [Int.abs_eq_natAbs] at hle
  rw [decide_eq_true_eq]
  omega

variable {s : State} {n m : Nat}

theorem bytesFrom_writeB (s : State) (base : Word) {bs : List Byte} {i : Nat} (h : i < bs.length) :
    (s.writeB base bs).bytesFrom base i = bs.getD i 0 := by
  rw [State.bytesFrom, State.readB, State.writeB_bmem, Memory.read_writeRegion, if_pos (by omega),
    Nat.add_sub_cancel_left, List.getElem?_eq_getElem h, Option.getD_some, List.getD_eq_getElem _ _ h]

theorem read_writeQ (s : State) (base : Word) {zs : List Int} {i : Nat} (h : i < zs.length) :
    Memory.read (s.writeQ base zs).qmem (base.toNat + i) = zs[i]?.map (BitVec.ofInt 32) := by
  rw [State.writeQ_qmem, Memory.read_writeRegion, if_pos (by rw [List.length_map]; omega), Nat.add_sub_cancel_left,
    List.getElem?_map]

theorem State.setTrunc_false (s : State) : s.setTrunc false = s := by
  rw [State.setTrunc, Bool.or_false]

/-- PACK of small magnitudes completes where its source and its bytes fit, and leaves TRUNC (R97, R108). -/
theorem packOn_of_small (hc : ConfiguredAs s n m) (hsrc : Fits s.src0 s.count Config.params.qwords)
    (hdst : Fits s.dst0 (packedBytes s).length Config.params.bbytes) (hsmall : ∀ v ∈ packInts s, |v| ≤ 65535) :
    packOn Config.params s = (s.writeB s.dst0 (packedBytes s)).complete (packedBytes s).length := by
  have hbounds := (Operands.sourceOnly_inBounds Config.params _).2 ((region_inBounds_iff .qmem _ _).2 hsrc)
  have hpass : commonFault Config.params (packOperands s) s = none :=
    commonFault_none (configuredAs_valid hc).1 hbounds (Operands.sourceOnly_overlap _)
  rw [packOn, State.checked_pass hpass, if_pos ((region_inBounds_iff _ _ _).2 hdst), truncates_of_small hsmall,
    State.setTrunc_false]

/-- UNPACK of a source that holds the block of a vector of small magnitudes writes the vector, and leaves UNDERRUN
(R100, R103). -/
theorem unpackOn_of_holds {vs : List Int} (hc : ConfiguredAs s n m) (hsrc : Fits s.src0 s.slen Config.params.bbytes)
    (hdst : Fits s.dst0 s.count Config.params.qwords) (hcount : vs.length = s.count)
    (hlen : (packBytes vs).length ≤ s.slen) (hholds : StreamHolds (s.bytesFrom s.src0) s.slen 0 (streamBits vs))
    (hsmall : ∀ v ∈ vs, |v| ≤ 65535) :
    unpackOn Config.params s = (s.writeQ s.dst0 vs).complete 0 := by
  have hpass : unpackOn Config.params s = ((s.writeQ s.dst0 (unpackedInts s)).setUnderrun
      (underruns s.slen (unpackEnd (s.bytesFrom s.src0) s.slen s.count))).complete 0 :=
    checked_oneByOne hc .bmem .qmem s.src0 s.dst0 s.slen s.count hsrc hdst (.inl (by decide))
  rw [hpass, unpackedInts, ← hcount, unpackInts_of_holds hholds hsmall, unpackEnd_of_holds hholds,
    underruns_streamBits hlen, State.setUnderrun_false]

/-- RES can hold the length of a region of BMEM. -/
theorem toNat_ofNat_of_fits {base : Word} {len : Nat} (h : Fits base len Config.params.bbytes) :
    (BitVec.ofNat 32 len).toNat = len := by
  have hsize : Config.params.bbytes = 2 ^ 22 := rfl
  rw [hsize] at h
  rw [BitVec.toNat_ofNat, Nat.mod_eq_of_lt (by omega)]

end Sys2Proof.Machine

namespace Sys2Proof

open Machine

/-- Settles O60: the bytes PACK leaves hold the bits of the vector, and UNPACK, started on them, reads those bits. -/
theorem packUnpackRoundTrip : Obligations.PackUnpackRoundTrip := by
  intro s n m hc htrunc hunderrun hsrc hdst hmagnitude
  have hcount : (packInts s).length = s.count := length_tabulate _ _
  have hsmall : ∀ v ∈ packInts s, |v| ≤ 65535 := by
    intro v hv
    obtain ⟨e, he, rfl⟩ := (mem_tabulate _ _ _).1 hv
    exact hmagnitude e he
  refine ⟨_, congrArg Host.Outcome.next (packOn_of_small hc hsrc hdst hsmall), rfl, htrunc,
    fun slen dst hres hsrc' hdst' => ?_⟩
  have hlen : (packBytes (packInts s)).length ≤ slen.toNat := (toNat_ofNat_of_fits hdst).symm.trans_le hres
  have hholds : StreamHolds ((s.writeB s.dst0 (packedBytes s)).bytesFrom s.dst0) slen.toNat 0
      (streamBits (packInts s)) :=
    streamHolds_packBytes hlen fun i hi => bytesFrom_writeB s s.dst0 hi
  refine ⟨_, congrArg Host.Outcome.next (unpackOn_of_holds hc hsrc' hdst' hcount hlen hholds hsmall), rfl, htrunc,
    hunderrun, fun e (he : e < s.count) => ?_⟩
  have he' : e < (packInts s).length := he.trans_eq hcount.symm
  rw [State.complete_qmem, read_writeQ _ dst he', packInts, getElem?_tabulate, if_pos he, Option.map_some]
  exact congrArg some BitVec.ofInt_toInt

end Sys2Proof
end

section
/-!
The transform pair of the reference instance (42_transform.md R83 to R85): two rows of the kernel are orthogonal unless
they are equal or mirror each other within a half of the block, so IMDCT after MDCT gives each entry plus or minus its
mirror.
-/

namespace Sys2Proof

/-- Entries `i` and `i'` of a block mirror each other within a half of it (R85): their kernel rows agree up to the sign
`(-1) ^ t`, because the sum of the rows' positions is the `t`-th multiple of 2N. -/
structure MirrorEntries (n i i' t : Nat) : Prop where
  entry_lt : i < 2 * n
  mirror_lt : i' < 2 * n
  positions : i + i' + 1 + n = 2 * n * t

theorem mirrorEntries_firstHalf {n j : Nat} (hj : j < n) : MirrorEntries n j (n - 1 - j) 1 :=
  ⟨by omega, by omega, by omega⟩

theorem mirrorEntries_secondHalf {n j : Nat} (hj : j < n) : MirrorEntries n (n + j) (n + (n - 1 - j)) 2 :=
  ⟨by omega, by omega, by omega⟩

/-- The sum of cosines at odd multiples of half an angle telescopes, as a difference of sines. -/
theorem two_mul_sin_half_mul_sum_cos (θ : ℝ) (n : Nat) :
    2 * Real.sin (θ / 2) * ∑ k ∈ Finset.range n, Real.cos (θ * (k + 1 / 2)) = Real.sin (θ * n) := by
  have hterm (k : Nat) : 2 * Real.sin (θ / 2) * Real.cos (θ * (k + 1 / 2)) =
      Real.sin (θ * (k + 1 : Nat)) - Real.sin (θ * k) := by
    have hlow : θ / 2 - θ * (k + 1 / 2) = -(θ * k) := by ring
    have hhigh : θ / 2 + θ * (k + 1 / 2) = θ * (k + 1 : Nat) := by push_cast; ring
    rw [Real.two_mul_sin_mul_cos, hlow, hhigh, Real.sin_neg, neg_add_eq_sub]
  rw [Finset.mul_sum, Finset.sum_congr rfl fun k _ => hterm k,
    Finset.sum_range_sub fun k : Nat => Real.sin (θ * k), Nat.cast_zero, mul_zero, Real.sin_zero, sub_zero]

/-- The sum over `k` of the cosines the products of two kernel factors split into (R15): the frequency `m` is the
difference or the sum of the two rows' positions. -/
noncomputable def cosineSum (n : Nat) (m : ℤ) : ℝ := ∑ k ∈ Finset.range n, Real.cos (Real.pi / n * m * (k + 1 / 2))

/-- Twice the inner product of two rows of the kernel. -/
theorem two_mul_sum_ker_mul_ker (n i j : Nat) (hn : 1 ≤ n) :
    2 * ∑ k ∈ Finset.range n, reference.ker n j k * reference.ker n i k =
      cosineSum n (j - i) + cosineSum n (j + i + 1 + n) := by
  have hn0 : (n : ℝ) ≠ 0 := Nat.cast_ne_zero.2 (by omega)
  rw [cosineSum, cosineSum, Finset.mul_sum, ← Finset.sum_add_distrib]
  refine Finset.sum_congr rfl fun k _ => ?_
  simp only [reference]
  rw [← mul_assoc, Real.two_mul_cos_mul_cos]
  congr 2
  · push_cast
    field_simp
    ring
  · push_cast
    field_simp
    ring

section Orthogonality

variable {n : Nat} (hn : 1 ≤ n)
include hn

theorem cosineSum_of_not_dvd {m : ℤ} (hm : ¬ 2 * (n : ℤ) ∣ m) : cosineSum n m = 0 := by
  have hn0 : (n : ℝ) ≠ 0 := Nat.cast_ne_zero.2 (by omega)
  have hsin : Real.sin (Real.pi / n * m / 2) ≠ 0 := by
    rw [Ne, Real.sin_eq_zero_iff]
    rintro ⟨t, ht⟩
    have hm' : (m : ℝ) = 2 * n * t := by
      field_simp at ht
      linarith
    exact hm ⟨t, mod_cast hm'⟩
  have htotal := two_mul_sin_half_mul_sum_cos (Real.pi / n * m) n
  rw [show Real.pi / n * m * n = m * Real.pi by field_simp, Real.sin_int_mul_pi] at htotal
  exact (mul_eq_zero.1 htotal).resolve_left (mul_ne_zero two_ne_zero hsin)

/-- At a multiple of 2N every cosine of the sum is 1, or every one is -1. -/
theorem cosineSum_mul (t : Nat) : cosineSum n (2 * n * t) = (-1) ^ t * n := by
  have hn0 : (n : ℝ) ≠ 0 := Nat.cast_ne_zero.2 (by omega)
  have hterm (k : Nat) : Real.cos (Real.pi / n * (2 * n * t : ℤ) * (k + 1 / 2)) = (-1) ^ t := by
    have hangle : Real.pi / n * (2 * n * t : ℤ) * (k + 1 / 2) = t * Real.pi + (t * k : Nat) * (2 * Real.pi) := by
      push_cast
      field_simp
      ring
    rw [hangle, Real.cos_add_nat_mul_two_pi, Real.cos_nat_mul_pi]
  rw [cosineSum, Finset.sum_congr rfl fun k _ => hterm k, Finset.sum_const, Finset.card_range, nsmul_eq_mul, mul_comm]

/-- Among the frequencies of one block, 2N consecutive ones, a single one is a multiple of 2N. -/
theorem cosineSum_eq_ite {m : ℤ} {j j₀ t : Nat} (hj : j < 2 * n) (hj₀ : j₀ < 2 * n) (hm : m = 2 * n * t + (j - j₀)) :
    cosineSum n m = if j = j₀ then (-1) ^ t * (n : ℝ) else 0 := by
  split
  case isTrue h =>
    rw [hm, h, sub_self, add_zero, cosineSum_mul hn]
  case isFalse h =>
    refine cosineSum_of_not_dvd hn fun hdvd => h ?_
    rw [hm, dvd_add_right (dvd_mul_right _ _)] at hdvd
    have hzero := Int.eq_zero_of_abs_lt_dvd hdvd (by rw [abs_lt]; omega)
    omega

/-- Orthogonality of the kernel's rows: the inner product with row `i` sees row `i` and its mirror alone. -/
theorem two_mul_sum_ker_mul_ker_eq_ite {i i' j t : Nat} (h : MirrorEntries n i i' t) (hj : j < 2 * n) :
    2 * ∑ k ∈ Finset.range n, reference.ker n j k * reference.ker n i k =
      n * ((if j = i then 1 else 0) + if j = i' then (-1) ^ t else 0) := by
  have hmirror : (i + i' + 1 + n : ℤ) = 2 * n * t := mod_cast h.positions
  have hdifference : cosineSum n (j - i) = if j = i then (-1) ^ 0 * (n : ℝ) else 0 :=
    cosineSum_eq_ite hn hj h.entry_lt (by simp)
  have hsum : cosineSum n (j + i + 1 + n) = if j = i' then (-1) ^ t * (n : ℝ) else 0 :=
    cosineSum_eq_ite hn hj h.mirror_lt (by linear_combination hmirror)
  rw [two_mul_sum_ker_mul_ker n i j hn, hdifference, hsum]
  split_ifs <;> ring

/-- R85's identity on one block, for entry `i` and its mirror `i'`. -/
theorem imdctRawOf_mdctOf_block (x : Nat → ℝ) (b : Nat) {i i' t : Nat} (h : MirrorEntries n i i' t) :
    imdctRawOf reference n (mdctOf reference n x) (b * (2 * n) + i) =
      x (b * (2 * n) + i) + (-1) ^ t * x (b * (2 * n) + i') := by
  have hn0 : (n : ℝ) ≠ 0 := Nat.cast_ne_zero.2 (by omega)
  have hcoefficient (k : Nat) (hk : k ∈ Finset.range n) : mdctOf reference n x (b * n + k) * reference.ker n i k =
      ∑ j ∈ Finset.range (2 * n), x (b * (2 * n) + j) * (reference.ker n j k * reference.ker n i k) := by
    rw [mdctOf_block reference n x b (Finset.mem_range.1 hk), reference_sum, Finset.sum_mul]
    exact Finset.sum_congr rfl fun j _ => mul_assoc _ _ _
  calc imdctRawOf reference n (mdctOf reference n x) (b * (2 * n) + i)
      = 2 / n * ∑ k ∈ Finset.range n, mdctOf reference n x (b * n + k) * reference.ker n i k := by
        rw [imdctRawOf_block reference n _ b h.entry_lt, reference_sum]
        rfl
    _ = 2 / n * ∑ j ∈ Finset.range (2 * n), x (b * (2 * n) + j) *
          ∑ k ∈ Finset.range n, reference.ker n j k * reference.ker n i k := by
        rw [Finset.sum_congr rfl hcoefficient, Finset.sum_comm]
        simp only [Finset.mul_sum]
    _ = ∑ j ∈ Finset.range (2 * n),
          x (b * (2 * n) + j) * ((if j = i then 1 else 0) + if j = i' then (-1) ^ t else 0) := by
        rw [Finset.mul_sum]
        refine Finset.sum_congr rfl fun j hj => ?_
        have hrow := two_mul_sum_ker_mul_ker_eq_ite hn h (Finset.mem_range.1 hj)
        field_simp
        linear_combination x (b * (2 * n) + j) * hrow
    _ = x (b * (2 * n) + i) + (-1) ^ t * x (b * (2 * n) + i') := by
        simp [mul_add, Finset.sum_add_distrib, h.entry_lt, h.mirror_lt, mul_comm ((-1 : ℝ) ^ t)]

/-- R85 in the first half of a block. -/
theorem imdctRawOf_mdctOf_firstHalf (x : Nat → ℝ) (b : Nat) {j : Nat} (hj : j < n) :
    imdctRawOf reference n (mdctOf reference n x) (b * (2 * n) + j) =
      x (b * (2 * n) + j) - x (b * (2 * n) + (n - 1 - j)) := by
  rw [imdctRawOf_mdctOf_block hn x b (mirrorEntries_firstHalf hj)]
  ring

/-- R85 in the second half of a block. -/
theorem imdctRawOf_mdctOf_secondHalf (x : Nat → ℝ) (b : Nat) {j : Nat} (hj : j < n) :
    imdctRawOf reference n (mdctOf reference n x) (b * (2 * n) + (n + j)) =
      x (b * (2 * n) + (n + j)) + x (b * (2 * n) + (n + (n - 1 - j))) := by
  rw [imdctRawOf_mdctOf_block hn x b (mirrorEntries_secondHalf hj)]
  ring

end Orthogonality

end Sys2Proof
end

section
/-!
Truncation (43_quantizer.md R89, R90; 47_pipeline.md R115): keeping fewer coefficients of a block leaves the kept ones as
they were and makes the others 0.
-/

namespace Sys2Proof

/-- QUANT rounds an entry the same way whatever the number kept, so a smaller number only adds zeros. -/
theorem dequantOf_quantOf_of_le {α : Type} (nm : Numerics α) (n : Nat) {k k' : Nat} (hk : k' ≤ k) (x : Nat → α)
    (b : Nat) {j : Nat} (h : j < n) :
    dequantOf nm n k' (quantOf nm n k' x) (b * n + j) =
      if j < k' then dequantOf nm n k (quantOf nm n k x) (b * n + j) else nm.zero := by
  rw [dequantOf_quantOf_block nm n k' x b h, dequantOf_quantOf_block nm n k x b h]
  split
  case isTrue hkept => rw [if_pos (hkept.trans_le hk)]
  case isFalse => rfl

/-- Settles O49: each entry of the larger M is that of the smaller M or 0, so term by term no square grows. -/
theorem truncationEnergy : Obligations.TruncationEnergy := by
  intro n m m' c hm _ kept fewer
  have hfewer (j : Nat) (hj : j < n) : fewer j = if j < n - m' then kept j else 0 := by
    simpa only [Nat.zero_mul, Nat.zero_add, reference_zero] using
      dequantOf_quantOf_of_le reference n (Nat.sub_le_sub_left hm n) c 0 hj
  refine ⟨fun j hj hzero => ?_, Finset.sum_le_sum fun j hj => ?_⟩
  · rw [hfewer j hj, hzero, ite_self]
  · rw [hfewer j (Finset.mem_range.1 hj)]
    split
    case isTrue => exact le_rfl
    case isFalse => simpa using sq_nonneg (kept j)

end Sys2Proof
end

section
/-!
Reconstruction (47_pipeline.md R112): the mirrored entries the inverse transform adds in the second half of one block and
subtracts in the first half of the next cancel under the window, so what OLA writes deviates from the samples by what was
done to IMDCT's outputs, weighted by two window factors whose squares sum to 1.
-/

namespace Sys2Proof

/-- The coefficients of the encoder's half of R112's chain: FRAME, WINA, MDCT. -/
noncomputable def analysisOf (n samples : Nat) (x : Nat → ℝ) : Nat → ℝ :=
  mdctOf reference n (windowOf reference n (frameOf reference n samples x))

section Windowed

variable {α : Type} (nm : Numerics α) {n samples q j : Nat} (x : Nat → α) (hj : j < n)
include hj

theorem segment_sample_lt (hq : q < samples / n) : q * n + j < samples :=
  (block_lt hq hj).trans_le (Nat.div_mul_le_self _ _)

/-- A sample of segment `q`, windowed in the second half of block `q`. -/
theorem windowOf_frameOf_secondHalf (hq : q < samples / n) :
    windowOf nm n (frameOf nm n samples x) (q * (2 * n) + (n + j)) = nm.mul (x (q * n + j)) (nm.win n (n + j)) := by
  have hlt := segment_sample_lt hj hq
  rw [windowOf_block nm n _ q (by omega), frameOf_block nm n samples x q (by omega), if_pos (by omega)]
  congr 2
  omega

/-- The same sample, windowed in the first half of the next block. -/
theorem windowOf_frameOf_firstHalf (hq : q < samples / n) :
    windowOf nm n (frameOf nm n samples x) ((q + 1) * (2 * n) + j) = nm.mul (x (q * n + j)) (nm.win n j) := by
  have hlt := segment_sample_lt hj hq
  have hnext : (q + 1) * n + j = q * n + j + n := by ring
  rw [windowOf_block nm n _ (q + 1) (by omega), frameOf_block nm n samples x (q + 1) (by omega), hnext,
    if_pos (by omega), Nat.add_sub_cancel]

end Windowed

section Reconstructed

variable {n samples q j : Nat} (hn : 1 ≤ n) (x : Nat → ℝ) (hj : j < n)
include hn hj

/-- The window at an entry's mirror is the window half a block away, because a block's window is symmetric (R81). -/
theorem reference_win_mirror : reference.win n (n - 1 - j) = reference.win n (n + j) ∧
    reference.win n (n + (n - 1 - j)) = reference.win n j := by
  have hfirst := ((windowLaw n (n + j) hn).2 (by omega)).1
  have hsecond := ((windowLaw n j hn).2 (by omega)).1
  rw [show 2 * n - 1 - (n + j) = n - 1 - j by omega] at hfirst
  rw [show 2 * n - 1 - j = n + (n - 1 - j) by omega] at hsecond
  exact ⟨hfirst, hsecond⟩

theorem imdctRawOf_analysisOf_secondHalf (hq : q < samples / n) :
    imdctRawOf reference n (analysisOf n samples x) (q * (2 * n) + (n + j)) =
      x (q * n + j) * reference.win n (n + j) + x (q * n + (n - 1 - j)) * reference.win n j := by
  rw [analysisOf, imdctRawOf_mdctOf_secondHalf hn _ q hj, windowOf_frameOf_secondHalf _ x hj hq,
    windowOf_frameOf_secondHalf _ x (j := n - 1 - j) (by omega) hq, (reference_win_mirror hn hj).2]
  rfl

theorem imdctRawOf_analysisOf_firstHalf (hq : q < samples / n) :
    imdctRawOf reference n (analysisOf n samples x) ((q + 1) * (2 * n) + j) =
      x (q * n + j) * reference.win n j - x (q * n + (n - 1 - j)) * reference.win n (n + j) := by
  rw [analysisOf, imdctRawOf_mdctOf_firstHalf hn _ (q + 1) hj, windowOf_frameOf_firstHalf _ x hj hq,
    windowOf_frameOf_firstHalf _ x (j := n - 1 - j) (by omega) hq, (reference_win_mirror hn hj).1]
  rfl

/-- The deviation of WINS and OLA over any blocks `y` from the samples, by the deviations of `y` from the inverse
transform: the mirrored terms cancel and the squares of the factors sum to 1. -/
theorem olaOf_windowOf_sub (y : Nat → ℝ) (hq : q < samples / n) :
    olaOf reference n (windowOf reference n y) (q * n + j) - x (q * n + j) =
      (y (q * (2 * n) + (n + j)) - imdctRawOf reference n (analysisOf n samples x) (q * (2 * n) + (n + j))) *
          reference.win n (n + j) +
        (y ((q + 1) * (2 * n) + j) - imdctRawOf reference n (analysisOf n samples x) ((q + 1) * (2 * n) + j)) *
          reference.win n j := by
  have hsquares := (windowLaw n j hn).1 hj
  rw [olaOf_block reference n _ q hj, Nat.add_assoc, windowOf_block reference n y q (by omega),
    windowOf_block reference n y (q + 1) (by omega), imdctRawOf_analysisOf_secondHalf hn x hj hq,
    imdctRawOf_analysisOf_firstHalf hn x hj hq, reference_add, reference_mul, reference_mul]
  linear_combination x (q * n + j) * hsquares

/-- Two window factors half a block apart sum to at most √2. -/
theorem reference_win_add_le_sqrt_two : reference.win n (n + j) + reference.win n j ≤ √2 := by
  have hsquares := (windowLaw n j hn).1 hj
  refine Real.le_sqrt_of_sq_le ?_
  linarith [add_sq_le (a := reference.win n (n + j)) (b := reference.win n j)]

end Reconstructed

/-- Blocks within ε of the inverse transform's are added up to within √2·ε of the samples. -/
theorem abs_olaOf_windowOf_sub_le {n samples p : Nat} (hn : 1 ≤ n) (x : Nat → ℝ) {y : Nat → ℝ} {ε : ℝ}
    (hy : ∀ i < blockCount n samples * (2 * n), |y i - imdctRawOf reference n (analysisOf n samples x) i| ≤ ε)
    (hp : p < samples / n * n) : |olaOf reference n (windowOf reference n y) p - x p| ≤ √2 * ε := by
  obtain ⟨q, j, hq, hj, rfl⟩ := exists_block hp
  have hleft := hy (q * (2 * n) + (n + j)) (block_lt (Nat.lt_succ_of_lt hq) (by omega))
  have hright := hy ((q + 1) * (2 * n) + j) (block_lt (Nat.succ_lt_succ hq) (by omega))
  obtain ⟨-, hleftWin, -⟩ := (windowLaw n (n + j) hn).2 (by omega)
  obtain ⟨-, hrightWin, -⟩ := (windowLaw n j hn).2 (by omega)
  rw [olaOf_windowOf_sub hn x hj y hq]
  calc _ ≤ ε * reference.win n (n + j) + ε * reference.win n j := by
        refine (abs_add_le _ _).trans ?_
        rw [abs_mul, abs_mul, abs_of_pos hleftWin, abs_of_pos hrightWin]
        gcongr
    _ = (reference.win n (n + j) + reference.win n j) * ε := by ring
    _ ≤ √2 * ε := mul_le_mul_of_nonneg_right (reference_win_add_le_sqrt_two hn hj) ((abs_nonneg _).trans hleft)

/-- `snap` moves a value by at most its threshold (R13). -/
theorem abs_reference_snap_sub_le (v : ℝ) : |reference.snap v - v| ≤ 1 / 10 ^ 10 := by
  rcases lt_or_ge |v| (1 / 10 ^ 10) with hv | hv
  · rw [reference_snap_of_lt hv, zero_sub, abs_neg]
    exact hv.le
  · rw [reference_snap_of_ge hv, sub_self, abs_zero]
    positivity

/-- Settles O52: the only deviation in the chain is the snap's, at most 10^-10 or, in the exact case, 0. -/
theorem reconstruction : Obligations.Reconstruction := by
  intro n samples x hn coefficients out
  refine ⟨fun p hp => ?_, fun hexact p hp => ?_⟩
  · calc |out p - x p| ≤ √2 * (1 / 10 ^ 10) :=
          abs_olaOf_windowOf_sub_le hn x (fun i _ => abs_reference_snap_sub_le _) hp
      _ < 3 / 2 * (1 / 10 ^ 10) := by
          gcongr
          rw [Real.sqrt_lt' (by norm_num)]
          norm_num
      _ = 15 / 10 ^ 11 := by norm_num
  · have hsnap (i : Nat) (hi : i < blockCount n samples * (2 * n)) :
        |imdctOf reference n coefficients i - imdctRawOf reference n coefficients i| ≤ 0 := by
      rcases lt_or_ge |imdctRawOf reference n coefficients i| (1 / 10 ^ 10) with hv | hv
      · rw [imdctOf, reference_snap_of_lt hv, hexact i hi hv, sub_self, abs_zero]
      · rw [imdctOf, reference_snap_of_ge hv, sub_self, abs_zero]
    have hbound : |out p - x p| ≤ √2 * 0 := abs_olaOf_windowOf_sub_le hn x hsnap hp
    rw [mul_zero, abs_nonpos_iff, sub_eq_zero] at hbound
    exact hbound

end Sys2Proof
end

section
/-!
Faults and ignored writes (60_exceptions.md R121 to R123, R126, R138): the common checks of every command as one function
of the command, against the table of R60; what a fault leaves unchanged; and what a faulted block refuses.
-/

namespace Sys2Proof.Machine

/-! ### The common checks against the table -/

section Table

/-- A region as an entry of the table of R60. -/
def Region.entry (r : Region) : Space × Nat × Nat := (r.space, r.base, r.len)

/-- The sizes of the spaces are those of the default build (R7, R39). -/
theorem unitsOf_eq_spaceUnits (space : Space) : unitsOf space = spaceUnits Config.params space := by
  cases space <;> rfl

theorem Region.tableFits_entry (r : Region) : TableFits r.entry ↔ r.InBounds Config.params := by
  rw [TableFits, Region.entry, unitsOf_eq_spaceUnits]

theorem Region.tableMeets_entry (a b : Region) : TableMeets a.entry b.entry ↔ a.Overlaps b := Iff.rfl

/-- The regions and pairs that the common checks of a command look at. -/
def operandsOf (i : Instr) (s : State) : Operands :=
  match i with
  | .msfwd | .msinv => matrixOperands s
  | .frame => frameOperands s
  | .wina | .wins => windowOperands s
  | .mdct => mdctOperands s
  | .quant => quantOperands s
  | .pack => packOperands s
  | .unpack => unpackOperands s
  | .dequant => dequantOperands s
  | .imdct => imdctOperands s
  | .ola => olaOperands s
  | .pcmout => pcmoutOperands s

/-- Every command is its common checks and then an effect of its own (R36). -/
theorem exec_eq_checked (i : Instr) (s : State) :
    ∃ effect, exec i s = .next (s.checked Config.params (operandsOf i s) effect) := by
  cases i <;> exact ⟨_, rfl⟩

/-- The checks `o` test what the table says: its regions for bounds, its destinations for overlaps. -/
def Operands.Checks (o : Operands) (i : Instr) (s : State) (n m : Nat) : Prop :=
  ((∀ r ∈ o.regions, r.InBounds Config.params) ↔ AllFit i s n m) ∧
  ((∃ q ∈ o.pairs, Region.Overlaps q.1 q.2) ↔ SomeMeet i s n m)

variable {i : Instr} {s : State} {n m : Nat} {a b c d : Region}

theorem Operands.oneByOne_checks (hsrc : sourceTable i s n m = [a.entry]) (hdst : targetTable i s n m = [b.entry]) :
    (Operands.oneByOne a b).Checks i s n m := by
  constructor
  · simp [AllFit, hsrc, hdst, Region.tableFits_entry, Operands.oneByOne_inBounds]
  · rw [Operands.oneByOne_overlap]
    simp [SomeMeet, hsrc, hdst, Region.tableMeets_entry]

theorem Operands.twoByTwo_checks (hsrc : sourceTable i s n m = [a.entry, b.entry])
    (hdst : targetTable i s n m = [c.entry, d.entry]) : (Operands.twoByTwo a b c d).Checks i s n m := by
  constructor
  · simp [AllFit, hsrc, hdst, Region.tableFits_entry, Operands.twoByTwo_inBounds]
  · rw [Operands.twoByTwo_overlap]
    simp [SomeMeet, hsrc, hdst, Region.tableMeets_entry, or_assoc, -Prod.exists]

theorem Operands.sourceOnly_checks (hsrc : sourceTable i s n m = [a.entry]) (hdst : targetTable i s n m = []) :
    (Operands.sourceOnly a).Checks i s n m := by
  constructor
  · simp [AllFit, hsrc, hdst, Region.tableFits_entry, Operands.sourceOnly_inBounds]
  · exact iff_of_false (Operands.sourceOnly_overlap a) (by simp [SomeMeet, hdst])

end Table

/-- The common checks of every command are those of its row of the table (R60, R121). -/
theorem operandsOf_checks (i : Instr) (s : State) : (operandsOf i s).Checks i s s.n s.m := by
  cases i with
  | msfwd | msinv => exact Operands.twoByTwo_checks rfl rfl
  | pack => exact Operands.sourceOnly_checks rfl rfl
  | frame | wina | wins | mdct | quant | unpack | dequant | imdct | ola | pcmout =>
    exact Operands.oneByOne_checks rfl rfl

/-! ### The fault a command takes -/

section Faults

variable {i : Instr} {s : State}

theorem exec_commonFault {e : ErrCode} (h : commonFault Config.params (operandsOf i s) s = some e) :
    exec i s = .next (s.raise e) := by
  obtain ⟨effect, hexec⟩ := exec_eq_checked i s
  rw [hexec, State.checked_fault h]

theorem exec_config (h : ¬ ConfigValid Config.params s) : exec i s = .next (s.raise .config) :=
  exec_commonFault (commonFault_config h)

section Configured

variable (hvalid : ConfigValid Config.params s)
include hvalid

theorem exec_bounds (hfit : ¬ AllFit i s s.n s.m) : exec i s = .next (s.raise .bounds) :=
  exec_commonFault (commonFault_bounds hvalid fun hb => hfit ((operandsOf_checks i s).1.1 hb))

variable (hfit : AllFit i s s.n s.m)
include hfit

theorem exec_overlap (hmeet : SomeMeet i s s.n s.m) : exec i s = .next (s.raise .overlap) := by
  obtain ⟨hregions, hpairs⟩ := operandsOf_checks i s
  exact exec_commonFault (commonFault_overlap hvalid (hregions.2 hfit) (hpairs.2 hmeet))

theorem commonFault_operandsOf_none (hmeet : ¬ SomeMeet i s s.n s.m) :
    commonFault Config.params (operandsOf i s) s = none := by
  obtain ⟨hregions, hpairs⟩ := operandsOf_checks i s
  exact commonFault_none hvalid (hregions.2 hfit) fun ho => hmeet (hpairs.1 ho)

end Configured

/-- QUANT reads RMEM and writes QMEM (R60), so nothing overlaps. -/
theorem not_someMeet_quant (s : State) (n m : Nat) : ¬ SomeMeet .quant s n m := by
  simp [SomeMeet, sourceTable, targetTable, TableMeets]

/-- PACK's destination is not among the regions of known length (R121), so nothing overlaps. -/
theorem not_someMeet_pack (s : State) (n m : Nat) : ¬ SomeMeet .pack s n m := by
  simp [SomeMeet, targetTable]

theorem fitsWord_eq_false_iff (z : Int) : fitsWord z = false ↔ z < -2 ^ 31 ∨ 2 ^ 31 - 1 < z := by
  simp [fitsWord, imp_iff_not_or]

/-- A kept coefficient `j` of a block `b` that does not fit a word (R89). -/
theorem exec_quant_range (hvalid : ConfigValid Config.params s) (hfit : AllFit .quant s s.n s.m) {b j : Nat}
    (hb : b < s.count) (hj : j < s.k) (hz : fitsWord (s.realsFrom s.src0 (b * s.n + j)).rnd = false) :
    exec .quant s = .next (s.raise .range) := by
  have hpass : commonFault Config.params (quantOperands s) s = none :=
    commonFault_operandsOf_none hvalid hfit (not_someMeet_quant s s.n s.m)
  have hmem : (s.realsFrom s.src0 (b * s.n + j)).rnd ∈ quantInts binary64 s :=
    (mem_tabulate _ _ _).2 ⟨b * s.k + j, block_lt hb hj, quantOf_block binary64 s.n s.k (s.realsFrom s.src0) b hj⟩
  have hall : ¬ (quantInts binary64 s).all fitsWord = true := fun hall =>
    ne_true_of_eq_false hz (List.all_eq_true.1 hall _ hmem)
  rw [exec_quant, quantOn, State.checked_pass hpass, if_neg hall]

theorem region_inBounds_bmem_iff (base : Word) (len : Nat) :
    (region .bmem base len).InBounds Config.params ↔ Fits base len Config.params.bbytes := by
  rw [region_inBounds_iff, spaceUnits]

/-- PACK's bytes do not fit in BMEM (R97). -/
theorem exec_pack_bounds (hvalid : ConfigValid Config.params s) (hfit : AllFit .pack s s.n s.m)
    (hbytes : ¬ Fits s.dst0 (packedBytes s).length Config.params.bbytes) :
    exec .pack s = .next (s.raise .bounds) := by
  have hpass : commonFault Config.params (packOperands s) s = none :=
    commonFault_operandsOf_none hvalid hfit (not_someMeet_pack s s.n s.m)
  rw [exec_pack, packOn, State.checked_pass hpass, if_neg ((region_inBounds_bmem_iff _ _).not.2 hbytes)]

end Faults

/-- A word that decodes to no command faults E_ILLEGAL (R36 step 1). -/
theorem coreTurn_of_not_decodes {s : State} (hb : s.busy = true) (hd : ∀ i, decode s.cmd ≠ .ok i) :
    coreTurn s = .next (s.raise .illegal) := by
  cases h : decode s.cmd with
  | ok i => exact absurd h (hd i)
  | error e => exact coreTurn_illegal s e hb h

/-- A core's turn that ends in a fault which was not there before is a fault entry (R123). -/
theorem coreTurn_faults_eq_raise {s t : State} (hs : s.fault = false) (h : coreTurn s = .next t)
    (ht : t.fault = true) : ∃ e, t = s.raise e := by
  have hset : t.fault ≠ s.fault := by rw [hs, ht]; decide
  rcases coreTurn_cases s t h with ⟨-, rfl⟩ | ⟨-, rfl⟩ | ⟨-, i, -, hi⟩
  · exact absurd rfl hset
  · exact ⟨.illegal, rfl⟩
  · rcases exec_cases i s t hi with ⟨e, -, he⟩ | heffect
    · exact ⟨e, he⟩
    · exact absurd heffect.fault_eq hset

/-- The flags of a pending command (R20). -/
theorem LegalStatus.flags_of_busy {s : State} (h : LegalStatus s) (hb : s.busy = true) :
    s.done = false ∧ s.fault = false ∧ s.trunc = false ∧ s.underrun = false := by
  obtain ⟨hdone, hfault, -, hinfo, -⟩ := h
  have hd : s.done = false := by simpa [hb] using hdone
  have hflags : s.trunc = false ∧ s.underrun = false := by simpa [hd] using hinfo
  exact ⟨hd, by simpa [hb] using hfault, hflags⟩

/-! ### A faulted block -/

/-- ERRCODE, CMD, RES and BUSY are as before: the fault stands, and no command has been accepted (R126). -/
def FaultStands (s t : State) : Prop :=
  t.errcode = s.errcode ∧ t.cmd = s.cmd ∧ t.res = s.res ∧ t.busy = s.busy

theorem FaultStands.refl (s : State) : FaultStands s s := ⟨rfl, rfl, rfl, rfl⟩

/-- A transaction with a faulted block that does not clear FAULT. -/
theorem TransactOf.faultStands {p : Params} {s t : State} (h : TransactOf p s t) (hs : s.fault = true)
    (ht : t.fault = true) : FaultStands s t := by
  cases h with
  | read | writeR | writeQ | writeB => exact FaultStands.refl s
  | csr _ hcsr =>
    cases hcsr with
    | ignored | registers => exact FaultStands.refl s
    | softReset => exact absurd ht Bool.false_ne_true
    | accepted _ _ hf => exact absurd (hf.symm.trans hs) Bool.false_ne_true

/-- A step of a faulted block that does not clear FAULT. -/
theorem step_faultStands {s t : State} (hb : s.busy = false) (hs : s.fault = true) (h : step s = .next t)
    (ht : t.fault = true) : FaultStands s t := by
  match hturns : s.turns with
  | [] =>
    obtain rfl := Host.Outcome.next.inj ((coreTurn_idle s hb).symm.trans ((step_nil s hturns).symm.trans h))
    exact FaultStands.refl s
  | .core :: rest =>
    obtain rfl := Host.Outcome.next.inj ((coreTurn_idle { s with turns := rest } hb).symm.trans
      ((step_core s rest hturns).symm.trans h))
    exact FaultStands.refl s
  | .host txn :: rest =>
    obtain rfl := Host.Outcome.next.inj ((step_host s txn rest hturns).symm.trans h)
    exact (State.transact_cases Config.params txn { s with turns := rest }).faultStands hs ht
  | .hardwareReset :: rest =>
    obtain rfl := Host.Outcome.next.inj ((step_hardwareReset s rest hturns).symm.trans h)
    rw [State.hardwareReset_fault] at ht
    exact absurd ht Bool.false_ne_true

/-! ### Ignored writes -/

/-- STATUS and RES are not written by the host (R20, R21). -/
theorem State.csrWrite_readOnly (s : State) {idx : Word} (h : idx = 1 ∨ idx = 3) (v : Word) : s.csrWrite idx v = s := by
  cases hb : s.busy with
  | true => exact State.csrWrite_busy hb idx v
  | false => rcases h with rfl | rfl <;> exact if_neg (ne_true_of_eq_false hb)

section Busy

variable {s : State} (h : s.busy = true)
include h

theorem State.bufWritable_busy (space : Space) (a : Word) : s.bufWritable Config.params space a ≠ true := by
  simp [State.bufWritable, h]

theorem State.transact_bufWriteR_busy (a : Word) (x : F64) : State.transact Config.params (.bufWriteR a x) s = s :=
  if_neg (State.bufWritable_busy h .rmem a)

theorem State.transact_bufWriteQ_busy (a v : Word) : State.transact Config.params (.bufWriteQ a v) s = s :=
  if_neg (State.bufWritable_busy h .qmem a)

theorem State.transact_bufWriteB_busy (a : Word) (x : Byte) : State.transact Config.params (.bufWriteB a x) s = s :=
  if_neg (State.bufWritable_busy h .bmem a)

end Busy

end Sys2Proof.Machine

namespace Sys2Proof

open Machine

/-- Settles O7: the common checks are those of the table, in the order in which `commonFault` makes them; QUANT and PACK
have no overlap to check and then test their data. -/
theorem commandFaults : Obligations.CommandFaults := by
  refine ⟨fun s hb hd => ⟨_, coreTurn_of_not_decodes hb hd, rfl⟩, fun i s => ⟨fun h => ⟨_, exec_config h, rfl⟩, ?_⟩⟩
  intro n m hc
  obtain ⟨hvalid, rfl, rfl, -⟩ := configuredAs_valid hc
  refine ⟨fun hfit => ⟨_, exec_bounds hvalid hfit, rfl⟩,
    fun hfit hmeet => ⟨_, exec_overlap hvalid hfit hmeet, rfl⟩, ?_, ?_⟩
  · rintro rfl hfit ⟨b, j, hb, hj, hz⟩
    exact ⟨_, exec_quant_range hvalid hfit hb hj ((fitsWord_eq_false_iff _).2 hz), rfl⟩
  · rintro rfl hfit hbytes
    exact ⟨_, exec_pack_bounds hvalid hfit hbytes, rfl⟩

/-- Settles O8: a pending command has FAULT and the three flags 0, so the fault is one that `raise` has just entered. -/
theorem faultEntry : Obligations.FaultEntry := by
  intro s t hlegal hb h ht
  obtain ⟨hdone, hfault, htrunc, hunderrun⟩ := hlegal.flags_of_busy hb
  obtain ⟨e, rfl⟩ := coreTurn_faults_eq_raise hfault h ht
  exact ⟨e, rfl, hdone, htrunc, hunderrun⟩

/-- Settles O9: a step that clears FAULT is one of the two resets, and every other leaves a faulted block, which is
idle, as it stands. -/
theorem secondFaultImpossible : Obligations.SecondFaultImpossible := by
  rintro s t ⟨⟨-, hbusyFault, -⟩, -⟩ hs h
  have hb : s.busy = false := by simpa [hs] using hbusyFault
  cases ht : t.fault with
  | true =>
    obtain ⟨herrcode, hcmd, hres, hbusy⟩ := step_faultStands hb hs h ht
    exact .inl ⟨rfl, herrcode, hcmd, hres, hbusy.trans hb⟩
  | false =>
    rcases step_clears_fault hs h ht with hreset | ⟨v, rest, hturns, hv, -⟩
    · exact .inr (.inl hreset)
    · exact .inr (.inr ⟨v, rest, hturns, hv⟩)

/-- Settles O21: one law per kind of ignored write. -/
theorem ignoredWrites : Obligations.IgnoredWrites := by
  intro s idx v
  refine ⟨(acceptanceRule s v).2, fun hb => ⟨State.csrWrite_busy hb idx v, State.transact_bufWriteR_busy hb idx,
    State.transact_bufWriteQ_busy hb idx v, State.transact_bufWriteB_busy hb idx⟩, ?_, s.csrWrite_ctrl_clear⟩
  rintro (hstatus | hres | hunmapped)
  · exact s.csrWrite_readOnly (.inl hstatus) v
  · exact s.csrWrite_readOnly (.inr hres) v
  · exact s.csrWrite_unmapped hunmapped v

end Sys2Proof
end

section
/-!
Reset and the configuration (70_reset_and_hazards.md R141): CFG_N = 0 after each reset, and it is no valid configuration.
-/

namespace Sys2Proof.Machine

/-- A valid configuration has N at least 1 (R22). -/
theorem ConfigValid.cfgN_ne_zero {α : Type} {p : Params} {s : State α} (h : ConfigValid p s) : s.cfgN ≠ 0 := by
  intro hzero
  obtain ⟨hn, -⟩ := h
  rw [hzero] at hn
  exact absurd hn (by decide)

end Sys2Proof.Machine

namespace Sys2Proof

open Machine

/-- Settles O12: each reset clears BUSY and CFG_N, and N = 0 fails the configuration check, the first that every command
makes. -/
theorem resetConfigurationRefuses : Obligations.ResetConfigurationRefuses := by
  refine ⟨?_, fun i s hzero => ⟨s.raise .config, exec_config fun hvalid => hvalid.cfgN_ne_zero hzero, rfl⟩⟩
  rintro s t (rfl | rfl | rfl)
  · exact ⟨rfl, rfl⟩
  · exact ⟨s.hardwareReset_busy Config.params, s.hardwareReset_cfgN Config.params⟩
  · exact ⟨s.softReset_busy, s.softReset_cfgN⟩

end Sys2Proof
end
